-- ==== Sys2Proof/Word.lean ====
section
/-! DEFINITION. The words of the SCP packet codec: bytes, and the unsigned numbers of 10, 16 and 32 bits that its
registers hold (R9, R55, R112). -/

namespace Sys2Proof

/-- A byte, always read as an unsigned number 0 to 255 (R9). -/
abbrev Byte := BitVec 8

/-- A buffer length, the width of `TXF_LEN` and `RXF_LEN` (R28, R29). -/
abbrev Len := BitVec 10

/-- The width of `payload_length`, `checksum`, `TX_LEN`, `RX_CALC`, `SUM` (R6). -/
abbrev Half := BitVec 16

/-- The width of `sequence` (R6). -/
abbrev Word := BitVec 32

end Sys2Proof
end

