-- ==== Sys2Proof/Config.lean ====
section
/-! DEFINITION. What is fixed for one instance of the block: the open parameter `SCP_VERSION` (R7), the constants of
R6, the table of defined type codes (R70) and what a byte that nothing has written reads as (R41). `BUS_MAP` (R8) has
no value here: no rule depends on it (log 10). -/

namespace Sys2Proof.Config

/-- `SCP_VERSION` (R7): an 8-bit value the spec leaves open, "constant for the life of the block". It has no body, so
no proof can use a value of it. DESIGN CHOICE, safe (log 4). -/
opaque scpVersion : Byte

/-- `MAX_PAYLOAD` (R6). -/
@[simp] abbrev maxPayload : Nat := 512

/-- `HDR_SIZE` (R6). -/
@[simp] abbrev hdrSize : Nat := 12

/-- `MAX_FRAME` (R6). -/
@[simp] abbrev maxFrame : Nat := 524

/-- `SUM_MOD` (R6). -/
@[simp] abbrev sumMod : Nat := 65536

/-- The seven defined type codes (R70): SYN, SYN-ACK, ACK, MSG, MSG-ACK, FIN, FIN-ACK. -/
def definedTypes : List Byte := [0x01#8, 0x02#8, 0x03#8, 0x10#8, 0x11#8, 0x20#8, 0x21#8]

/-- What a buffer byte that no entry lists reads as: every buffer byte is 0x00 after reset (R41). Unsafe if a real
implementation left its RAM uncleared (D22, log 8). -/
@[simp] abbrev unlistedByte : Byte := 0x00#8

end Sys2Proof.Config
end

