-- ==== Sys2Proof/Syntax.lean ====
section
/-! DEFINITION. The instructions: one constructor for each row of spec/opcode_table.json. Seven rows are frame types
(R71 to R77), six are commands (R78). The four host accesses RD, WR, RDB, WRB have no row and no encoding (R86); they
are the events of Sys2Proof/Machine/Access.lean. -/

namespace Sys2Proof

/-- The operands of a frame row: every letter of the table's pattern but the type, and the payload that follows the
header (R64, R65). -/
structure FrameOperands where
  /-- `v`: version, byte 0. -/
  version : Byte
  /-- `f`: flags, byte 2. -/
  flags : Byte
  /-- `r`: reserved, byte 3. -/
  reserved : Byte
  /-- `s`: sequence, bytes 4 to 7. -/
  sequence : Word
  /-- `l`: payload_length, bytes 8 to 9. -/
  payloadLength : Half
  /-- `c`: checksum, bytes 10 to 11. -/
  checksum : Half
  /-- The payload bytes, from byte 12. -/
  payload : List Byte
  deriving DecidableEq, Repr

/-- The rows of the opcode table. -/
inductive Instr where
  /-- SYN, type 0x01 (R71). -/
  | syn (f : FrameOperands)
  /-- SYN-ACK, type 0x02 (R72). -/
  | synAck (f : FrameOperands)
  /-- ACK, type 0x03 (R73). -/
  | ack (f : FrameOperands)
  /-- MSG, type 0x10 (R74). -/
  | msg (f : FrameOperands)
  /-- MSG-ACK, type 0x11 (R75). -/
  | msgAck (f : FrameOperands)
  /-- FIN, type 0x20 (R76). -/
  | fin (f : FrameOperands)
  /-- FIN-ACK, type 0x21 (R77). -/
  | finAck (f : FrameOperands)
  /-- ENCODE, code 0x01 (R89). -/
  | encode
  /-- DECODE, code 0x02 (R97). -/
  | decode
  /-- VALIDATE, code 0x03 (R114). -/
  | validate
  /-- CSUM, code 0x04 (R109). -/
  | csum
  /-- LOOP, code 0x05 (R123). -/
  | loop
  /-- RESET, code 0x06 (R126). -/
  | reset
  deriving DecidableEq, Repr

end Sys2Proof
end

