-- ==== Sys2Proof/WellFormed.lean ====
section
/-! DEFINITION. Which terms of Instr are instructions that the encodings can carry: a frame's payload has as many bytes
as `payload_length` says, and at most 512 (R63, R84). A command has no operand to check (R78). -/

namespace Sys2Proof

/-- "`0 <= n <= 512`" (R63): the length field is one a legal frame may have. -/
def FrameOperands.lengthLegal (f : FrameOperands) : Bool := f.payloadLength.toNat ≤ Config.maxPayload

/-- The payload has `payload_length` bytes (R63: "`n` being the value of the header's `payload_length` field"). -/
def FrameOperands.lengthMatches (f : FrameOperands) : Bool := f.payload.length = f.payloadLength.toNat

/-- A frame's operands are those of a legal frame. -/
def FrameOperands.wf (f : FrameOperands) : Bool := f.lengthLegal && f.lengthMatches

/-- The instruction is one the encodings of R64 and R78 can carry. -/
def Instr.wf : Instr → Bool
  | .syn f | .synAck f | .ack f | .msg f | .msgAck f | .fin f | .finAck f => f.wf
  | .encode | .decode | .validate | .csum | .loop | .reset => true

end Sys2Proof
end

