-- ==== Sys2Proof/Decode.lean ====
section
/-! DEFINITION. The two encodings of this hardware (30_encoding.md): the command code written to `CMD` (R78) and the
frame (R64). The field packer (R66) and unpacker (R67), the pure function Decode of R103, the decoder of instructions,
total on any byte and on any byte sequence and rejecting by name, and after it the encoder. -/

namespace Sys2Proof

/-- `BE16(hi, lo)`: the number `hi * 256 + lo` (R10). -/
def be16 (hi lo : Byte) : Half := hi ++ lo

/-- `BE32(b0, b1, b2, b3)`, most significant byte first (R10). -/
def be32 (b0 b1 b2 b3 : Byte) : Word := b0 ++ b1 ++ b2 ++ b3

/-- Byte `k` of a value, byte 0 its least significant: `v[8k+7 : 8k]` (R9). -/
def byteOf {w : Nat} (v : BitVec w) (k : Nat) : Byte := v.extractLsb' (8 * k) 8

/-- Byte `i` of a sequence; sequences are only read at indices they have, so the default is never a byte of a frame. -/
def byteAt (bs : List Byte) (i : Nat) : Byte := bs.getD i 0x00#8

/-- The fields of a frame header, in the order of the wire (R64). -/
structure Header where
  version : Byte
  typ : Byte
  flags : Byte
  reserved : Byte
  sequence : Word
  payloadLength : Half
  checksum : Half
  deriving DecidableEq, Repr

/-- The `Packet` record of R11: the header's fields and the payload. -/
structure Packet where
  header : Header
  payload : List Byte
  deriving DecidableEq, Repr

/-- `PackHeader` (R66): the 12 header bytes, every multi-byte field big-endian (R52). -/
def packHeader (h : Header) : List Byte :=
  [h.version, h.typ, h.flags, h.reserved,
   byteOf h.sequence 3, byteOf h.sequence 2, byteOf h.sequence 1, byteOf h.sequence 0,
   byteOf h.payloadLength 1, byteOf h.payloadLength 0,
   byteOf h.checksum 1, byteOf h.checksum 0]

/-- `UnpackHeader` (R67), of the first 12 bytes of a sequence. -/
def unpackHeader (bs : List Byte) : Header where
  version := byteAt bs 0
  typ := byteAt bs 1
  flags := byteAt bs 2
  reserved := byteAt bs 3
  sequence := be32 (byteAt bs 4) (byteAt bs 5) (byteAt bs 6) (byteAt bs 7)
  payloadLength := be16 (byteAt bs 8) (byteAt bs 9)
  checksum := be16 (byteAt bs 10) (byteAt bs 11)

/-- The bytes of a packet: header, then payload (R63, R65). -/
def Packet.bytes (p : Packet) : List Byte := packHeader p.header ++ p.payload

/-- Why bytes are not an instruction. -/
inductive Reject where
  /-- Raised for fewer than 12 bytes (R98); safe. -/
  | shortHeader
  /-- Raised when `payload_length` implies more bytes than there are (R99); safe. -/
  | shortPayload
  /-- Raised for a `payload_length` above 512, which no legal frame has (R84); safe. -/
  | payloadTooLong
  /-- Raised for a type code outside R70: the table has no row for such a frame, though DECODE passes it (R81); safe. -/
  | undefinedType (t : Byte)
  /-- Raised for a byte that is no command code (R80); safe. -/
  | illegalCommand (c : Byte)
  deriving DecidableEq, Repr

/-- The pure function `Decode` of R103, with its two failure causes in the order of R99. The comparison is on unbounded
numbers, so it does not wrap. Bytes after the frame are ignored (R101). -/
def decodePacket (bs : List Byte) : Except Reject Packet :=
  if bs.length < Config.hdrSize then .error .shortHeader
  else
    let h := unpackHeader bs
    if Config.hdrSize + h.payloadLength.toNat > bs.length then .error .shortPayload
    else .ok { header := h, payload := (bs.drop Config.hdrSize).take h.payloadLength.toNat }

/-- The operands of the frame row that a packet belongs to. -/
def Packet.operands (p : Packet) : FrameOperands where
  version := p.header.version
  flags := p.header.flags
  reserved := p.header.reserved
  sequence := p.header.sequence
  payloadLength := p.header.payloadLength
  checksum := p.header.checksum
  payload := p.payload

/-- The row of the type table (R70) that a packet belongs to. -/
def instrOfPacket (p : Packet) : Except Reject Instr :=
  let t := p.header.typ
  if t = 0x01#8 then .ok (.syn p.operands)
  else if t = 0x02#8 then .ok (.synAck p.operands)
  else if t = 0x03#8 then .ok (.ack p.operands)
  else if t = 0x10#8 then .ok (.msg p.operands)
  else if t = 0x11#8 then .ok (.msgAck p.operands)
  else if t = 0x20#8 then .ok (.fin p.operands)
  else if t = 0x21#8 then .ok (.finAck p.operands)
  else .error (.undefinedType t)

/-- The frame instruction at the head of a received byte sequence (R69, R71 to R77). -/
def decodeFrame (bs : List Byte) : Except Reject Instr :=
  match decodePacket bs with
  | .error e => .error e
  | .ok p => if p.header.payloadLength.toNat ≤ Config.maxPayload then instrOfPacket p else .error .payloadTooLong

/-- The command with code `c` (R78); every other byte is illegal (R80). -/
def decodeCommand (c : Byte) : Except Reject Instr :=
  if c = 0x01#8 then .ok .encode
  else if c = 0x02#8 then .ok .decode
  else if c = 0x03#8 then .ok .validate
  else if c = 0x04#8 then .ok .csum
  else if c = 0x05#8 then .ok .loop
  else if c = 0x06#8 then .ok .reset
  else .error (.illegalCommand c)

/-- The two things that are encoded in this hardware. -/
inductive Code where
  /-- A byte written to `CMD` (R78). -/
  | command (c : Byte)
  /-- The bytes of one datagram (R69: "The datagram boundary, not any field, delimits the input"). -/
  | datagram (bs : List Byte)
  deriving DecidableEq, Repr

/-- The decoder, total on both kinds of code. -/
def decode : Code → Except Reject Instr
  | .command c => decodeCommand c
  | .datagram bs => decodeFrame bs

/-- The packet that a frame row with type code `t` stands for (R64). -/
def FrameOperands.packet (t : Byte) (f : FrameOperands) : Packet where
  header :=
    { version := f.version, typ := t, flags := f.flags, reserved := f.reserved, sequence := f.sequence,
      payloadLength := f.payloadLength, checksum := f.checksum }
  payload := f.payload

/-- The encoder: the code byte of a command (R78), the bytes of a frame (R64 to R66, R70). -/
def encode : Instr → Code
  | .syn f => .datagram (f.packet 0x01#8).bytes
  | .synAck f => .datagram (f.packet 0x02#8).bytes
  | .ack f => .datagram (f.packet 0x03#8).bytes
  | .msg f => .datagram (f.packet 0x10#8).bytes
  | .msgAck f => .datagram (f.packet 0x11#8).bytes
  | .fin f => .datagram (f.packet 0x20#8).bytes
  | .finAck f => .datagram (f.packet 0x21#8).bytes
  | .encode => .command 0x01#8
  | .decode => .command 0x02#8
  | .validate => .command 0x03#8
  | .csum => .command 0x04#8
  | .loop => .command 0x05#8
  | .reset => .command 0x06#8

/-- The 12 header bytes of a frame row's 96-bit number. The table takes the header "as one 96-bit big-endian number",
so byte 0 is bits 95:88. DEDUCED, safe (log 6). -/
def tableHeaderBytes (w : Nat) : List Byte :=
  (List.range Config.hdrSize).map fun i => byteOf (BitVec.ofNat 96 w) (11 - i)

/-- A header followed by the payload bytes of zero that its length field asks for, at most 512: the operand words of
zeros that a table row leaves out. -/
def withZeroPayload (header : List Byte) : List Byte :=
  header ++ List.replicate (min (unpackHeader header).payloadLength.toNat Config.maxPayload) 0x00#8

/-- The instruction the decoder reads from a row of the opcode table with bits `w`: 8 bits are a command code, 96 bits a
frame header, which its payload bytes follow. -/
def decodeTableWord (nbits w : Nat) : Option Instr :=
  if nbits = 8 then (decode (.command (BitVec.ofNat 8 w))).toOption
  else if nbits = 96 then (decode (.datagram (withZeroPayload (tableHeaderBytes w)))).toOption
  else none

end Sys2Proof
end

