-- ==== Sys2Proof/Machine/Access.lean ====
section
/-! DEFINITION. What reaches the block from outside, one event a step: the four host accesses (R47) and the hardware
reset (R151); the 21 registers with their numbers and widths (R15, R46) and the four buffers with their ids and sizes
(R46); and what a read gives back to the host (R47). -/

namespace Sys2Proof.Machine

/-- The twenty-one registers (R15). -/
inductive Reg where
  | version | ctrl | cmd | status
  | txType | txFlags | txRsvd | txSeq | txLen | txCksum | txfLen
  | rxfLen | rxVer | rxType | rxFlags | rxRsvd | rxSeq | rxPlen | rxCksum | rxCalc | sum
  deriving DecidableEq, Repr

/-- A register's width in bits (R15's summary table). -/
abbrev Reg.width : Reg → Nat
  | .version | .ctrl | .cmd => 8
  | .status => 16
  | .txType | .txFlags | .txRsvd => 8
  | .txSeq => 32
  | .txLen | .txCksum => 16
  | .txfLen | .rxfLen => 10
  | .rxVer | .rxType | .rxFlags | .rxRsvd => 8
  | .rxSeq => 32
  | .rxPlen | .rxCksum | .rxCalc | .sum => 16

/-- The registers in the order of their numbers 0 to 20 (R46). -/
def Reg.all : List Reg :=
  [.version, .ctrl, .cmd, .status, .txType, .txFlags, .txRsvd, .txSeq, .txLen, .txCksum, .txfLen,
   .rxfLen, .rxVer, .rxType, .rxFlags, .rxRsvd, .rxSeq, .rxPlen, .rxCksum, .rxCalc, .sum]

/-- The register with a host register number, if there is one (R46, R50). -/
def Reg.ofNumber (n : Nat) : Option Reg := Reg.all[n]?

/-- The four byte buffers (R15, R46). -/
inductive Buf where
  | txp | txf | rxf | rxp
  deriving DecidableEq, Repr

/-- A buffer's size in bytes; its valid indices are those below it (R46). -/
def Buf.size : Buf → Nat
  | .txp | .rxp => Config.maxPayload
  | .txf | .rxf => Config.maxFrame

/-- Whether the host may write a buffer (R47). -/
def Buf.writable : Buf → Bool
  | .txp | .rxf => true
  | .txf | .rxp => false

/-- The buffers in the order of their ids 0 to 3 (R46). -/
def Buf.all : List Buf := [.txp, .txf, .rxf, .rxp]

/-- The buffer with an id, if there is one (R46, R50). -/
def Buf.ofId (n : Nat) : Option Buf := Buf.all[n]?

/-- One thing that happens to the block from outside. A `WR` carries a value of its register's width: "a model types the
operand by the register and admits no wider value" (R48). The last two constructors stand for the accesses that name no
register or no buffer, so that they too can be written down and refused (R50, log 12). -/
inductive Event where
  /-- `RD reg` (R47). -/
  | rd (r : Reg)
  /-- `WR reg, v` (R48); `WR CMD, c` executes a command (R51). -/
  | wr (r : Reg) (v : BitVec r.width)
  /-- `RDB buf, i` (R47). -/
  | rdb (b : Buf) (i : Nat)
  /-- `WRB buf, i, v` (R47). -/
  | wrb (b : Buf) (i : Nat) (v : Byte)
  /-- The hardware reset (R151). -/
  | hardReset
  /-- An `RD` or `WR` of register number `21 + k`, which names no register (R50). -/
  | noRegister (k : Nat)
  /-- An `RDB` or `WRB` at index `i` of buffer id `4 + k`, which names no buffer (R50). -/
  | noBuffer (k i : Nat)
  deriving DecidableEq, Repr

/-- `RD` of a register by its number (R46). -/
def Event.rdNumber (n : Nat) : Event :=
  match Reg.ofNumber n with
  | some r => .rd r
  | none => .noRegister (n - 21)

/-- `WR` of a register by its number (R46), of a value that fits it: how a wider bus word is narrowed is `BUS_MAP`'s
(93_implementation_defined.md W6), and this helper keeps its low bits (log 12). -/
def Event.wrNumber (n v : Nat) : Event :=
  match Reg.ofNumber n with
  | some r => .wr r (BitVec.ofNat r.width v)
  | none => .noRegister (n - 21)

/-- `RDB` of a buffer by its id (R46). -/
def Event.rdbNumber (id i : Nat) : Event :=
  match Buf.ofId id with
  | some b => .rdb b i
  | none => .noBuffer (id - 4) i

/-- `WRB` of a buffer by its id (R46). -/
def Event.wrbNumber (id i : Nat) (v : Byte) : Event :=
  match Buf.ofId id with
  | some b => .wrb b i v
  | none => .noBuffer (id - 4) i

/-- What a read returns to the host: the register's whole value, or one byte of a buffer (R47, R53). -/
inductive Answer where
  /-- The value that `RD r` returned. -/
  | reg (r : Reg) (v : BitVec r.width)
  /-- The byte that `RDB b, i` returned. -/
  | byte (b : Buf) (i : Nat) (v : Byte)
  deriving DecidableEq, Repr

end Sys2Proof.Machine
end

