-- ==== Sys2Proof/Machine/State.lean ====
section
/-! DEFINITION. The state of the block (10_state.md R15 to R37), as plain data: the common registers, the transmit side
and the receive side, each group being what one command writes (R44); and the model's own two fields, what the host will
do next and what it has been given back (log 1, log 3). State.reset is the state after reset (R41). -/

namespace Sys2Proof.Machine

/-- The bytes of one buffer: the non-zero bytes by strictly rising index. An index that is not listed reads
`Config.unlistedByte` (log 8). -/
abbrev Memory := List Host.Cell

/-- The outcomes that `STATUS.ERR` can hold (R25, R129). Codes 6 and 7 are never produced. -/
inductive ErrorCode where
  | none | malformedPacket | versionMismatch | checksumMismatch | notReady | illegalCommand
  deriving DecidableEq, Repr

/-- The fields of `STATUS` (R19). The unimplemented bits read 0 and are not stored (log 9). -/
structure Status where
  /-- `TXV` (R20). -/
  txv : Bool
  /-- `RXV` (R21). -/
  rxv : Bool
  /-- `OK` (R22). -/
  ok : Bool
  /-- `UNCK` (R23). -/
  unck : Bool
  /-- `TUNK` (R24). -/
  tunk : Bool
  /-- `ERR` (R25). -/
  err : ErrorCode
  deriving DecidableEq, Repr

/-- The inputs of ENCODE, written by the host (R26, R27, R34). -/
structure TxInputs where
  /-- `TX_TYPE`. -/
  typ : Byte
  /-- `TX_FLAGS`. -/
  flags : Byte
  /-- `TX_RSVD`. -/
  rsvd : Byte
  /-- `TX_SEQ`. -/
  seq : Word
  /-- `TX_LEN`: the offered payload length. -/
  len : Half
  /-- `TXP`. -/
  txp : Memory
  deriving DecidableEq, Repr

/-- The outputs of ENCODE (R28, R35). -/
structure TxFrame where
  /-- `TX_CKSUM`. -/
  cksum : Half
  /-- `TXF_LEN`. -/
  len : Len
  /-- `TXF`. -/
  txf : Memory
  deriving DecidableEq, Repr

/-- The received datagram: the input of DECODE and CSUM (R29, R36). -/
structure RxGram where
  /-- `RXF_LEN`. -/
  len : Len
  /-- `RXF`. -/
  rxf : Memory
  deriving DecidableEq, Repr

/-- The decoded packet (R30, R32, R37). -/
structure RxPacket where
  /-- `RX_VER`. -/
  ver : Byte
  /-- `RX_TYPE`. -/
  typ : Byte
  /-- `RX_FLAGS`. -/
  flags : Byte
  /-- `RX_RSVD`. -/
  rsvd : Byte
  /-- `RX_SEQ`. -/
  seq : Word
  /-- `RX_PLEN`. -/
  plen : Half
  /-- `RX_CKSUM`. -/
  cksum : Half
  /-- `RX_CALC`. -/
  computed : Half
  /-- `RXP`. -/
  rxp : Memory
  deriving DecidableEq, Repr

/-- The state of the machine. `CMD` stores nothing (R18) and has no field. -/
structure State where
  /-- `VERSION`: the instance's `SCP_VERSION` (R16); no step changes it (log 4). -/
  version : Byte
  /-- `CTRL.CKEN`, the one implemented bit of `CTRL` (R17). -/
  cken : Bool
  /-- `STATUS` (R19). -/
  status : Status
  /-- `TX_TYPE`, `TX_FLAGS`, `TX_RSVD`, `TX_SEQ`, `TX_LEN`, `TXP`. -/
  tx : TxInputs
  /-- `TX_CKSUM`, `TXF_LEN`, `TXF`. -/
  frame : TxFrame
  /-- `RXF_LEN`, `RXF`. -/
  gram : RxGram
  /-- `RX_VER` to `RX_CALC`, `RXP`. -/
  rx : RxPacket
  /-- `SUM` (R33). -/
  sum : Half
  /-- The model's own: what the host and the reset line will do, first one first (R14, R59, log 1). -/
  pending : List Event
  /-- The model's own: what reads have returned to the host, newest first (R47, log 3). -/
  returned : List Answer
  deriving DecidableEq, Repr

/-- Reasons for a fault. There is none: "no outcome of rule R129 is a chip fault" (R139), so nothing raises one and the
type has no constructor. Safe: the error outcomes are next states with `STATUS.ERR` set. -/
inductive Fault where
  deriving DecidableEq, Repr

/-- Reasons for a refusal. "The only refusals are accesses to locations that do not exist" (R139, R50). -/
inductive Refusal where
  /-- Raised by an arm of `exec` whose instruction has no meaning yet; no arm raises it. Safe. -/
  | notModelled (mnemonic : String)
  /-- Raised by an RD or WR of a register number above 20 (R50). Safe. -/
  | noSuchRegister (number : Nat)
  /-- Raised by an RDB or WRB of a buffer id above 3 (R50). Safe. -/
  | noSuchBuffer (id : Nat)
  /-- Raised by an RDB or WRB at an index outside the buffer (R50). Safe. -/
  | noSuchIndex (b : Buf) (i : Nat)
  deriving DecidableEq, Repr

/-- `STATUS = 0x0000` (R41). -/
def Status.reset : Status where
  txv := false
  rxv := false
  ok := false
  unck := false
  tunk := false
  err := .none

/-- The transmit inputs after reset (R41). -/
def TxInputs.reset : TxInputs where
  typ := 0x00#8
  flags := 0x00#8
  rsvd := 0x00#8
  seq := 0x00000000#32
  len := 0x0000#16
  txp := []

/-- The transmit outputs after reset (R41). -/
def TxFrame.reset : TxFrame where
  cksum := 0x0000#16
  len := 0#10
  txf := []

/-- The receive buffer after reset (R41). -/
def RxGram.reset : RxGram where
  len := 0#10
  rxf := []

/-- The decoded packet after reset (R41); also what no packet held reads as (R21). -/
def RxPacket.reset : RxPacket where
  ver := 0x00#8
  typ := 0x00#8
  flags := 0x00#8
  rsvd := 0x00#8
  seq := 0x00000000#32
  plen := 0x0000#16
  cksum := 0x0000#16
  computed := 0x0000#16
  rxp := []

/-- The machine right after reset (R41, R151): everything zero but `CTRL.CKEN` = 1 and `VERSION` = `SCP_VERSION`; no
event waits and nothing has been read (DESIGN CHOICE, log 1, log 3). -/
def State.reset : State where
  version := Config.scpVersion
  cken := true
  status := .reset
  tx := .reset
  frame := .reset
  gram := .reset
  rx := .reset
  sum := 0x0000#16
  pending := []
  returned := []

end Sys2Proof.Machine
end

