-- ==== Sys2Proof/Machine/Operands.lean ====
section
/-! DEFINITION. What the commands compute, as the pure functions of R11: ByteSum (R105), FrameSum (R108), Encode (R96)
and Validate (R122). Decode (R103) is `decodePacket` of Sys2Proof/Decode.lean. All of it is unsigned (R111). -/

namespace Sys2Proof.Machine

/-- `ByteSum(s)` (R105): the sum of all bytes, each 0 to 255, modulo 65536. -/
def byteSum (bs : List Byte) : Half := BitVec.ofNat 16 ((bs.map BitVec.toNat).sum % Config.sumMod)

/-- `FrameSum(f)` (R108): the sum with frame bytes 10 and 11 counted as zero. -/
def frameSum (f : List Byte) : Half := byteSum (f.take 10 ++ [0x00#8, 0x00#8] ++ f.drop Config.hdrSize)

/-- The sum that belongs in a packet's checksum field: "the field taken as zero" (R89, R115). -/
def checksumOf (p : Packet) : Half :=
  byteSum (packHeader { p.header with checksum := 0x0000#16 } ++ p.payload)

/-- `n = min(TX_LEN, 512)` (R91). -/
def payloadCount (offered : Half) : Nat := min offered.toNat Config.maxPayload

/-- The packet that `Encode` (R96) puts on the wire: the first `n` offered bytes, `payload_length` = `n`, and the
computed sum or, when `CKEN` is 0, zero in the checksum field (R92). -/
def encodePacket (version : Byte) (cken : Bool) (typ flags rsvd : Byte) (seq : Word) (len : Half)
    (offered : List Byte) : Packet :=
  let n := payloadCount len
  let p : Packet :=
    { header :=
        { version := version, typ := typ, flags := flags, reserved := rsvd, sequence := seq,
          payloadLength := BitVec.ofNat 16 n, checksum := 0x0000#16 }
      payload := offered.take n }
  { p with header := { p.header with checksum := if cken then checksumOf p else 0x0000#16 } }

/-- The result of `Validate` (R11, R122). -/
inductive Verdict where
  | acceptChecked | acceptUnchecked | versionMismatch | checksumMismatch
  deriving DecidableEq, Repr

/-- `Validate(v, P)` (R122): version first (R116), then the zero escape (R117), then the comparison (R118). -/
def validatePacket (version : Byte) (p : Packet) : Verdict :=
  if p.header.version ≠ version then .versionMismatch
  else if p.header.checksum = 0x0000#16 then .acceptUnchecked
  else if p.header.checksum ≠ checksumOf p then .checksumMismatch
  else .acceptChecked

end Sys2Proof.Machine
end

