-- ==== Sys2Proof/Machine/Flags.lean ====
section
/-! DEFINITION. The status register: its 16-bit view (R19), the codes of `ERR` (R25), and what each command does to its
fields (R20 to R25, R132). A field that a definition does not name keeps its value. -/

namespace Sys2Proof.Machine

/-- The code of an outcome (R25). -/
def ErrorCode.code : ErrorCode → BitVec 3
  | .none => 0#3
  | .malformedPacket => 1#3
  | .versionMismatch => 2#3
  | .checksumMismatch => 3#3
  | .notReady => 4#3
  | .illegalCommand => 5#3

/-- `STATUS` as the host reads it (R19): `TXV` is bit 0, `ERR` bits 10:8; bits 7:5 and 15:11 are 0. -/
def Status.word (f : Status) : Half :=
  0#5 ++ f.err.code ++ 0#3 ++ BitVec.ofBool f.tunk ++ BitVec.ofBool f.unck ++ BitVec.ofBool f.ok
    ++ BitVec.ofBool f.rxv ++ BitVec.ofBool f.txv

/-- Whether a type code is one of the seven of R70. -/
def typeDefined (t : Byte) : Bool := Config.definedTypes.contains t

/-- `STATUS.ERR <- e`, nothing else (R25, R131). -/
def Status.ended (f : Status) (e : ErrorCode) : Status := { f with err := e }

/-- After ENCODE: `TXV <- 1`, `ERR <- None` (R89). -/
def Status.encoded (f : Status) : Status := { f with txv := true, err := .none }

/-- After a DECODE that succeeds on a packet of type `t` (R97): `RXV <- 1`, `TUNK` as R24 says, `OK` and `UNCK` cleared,
`ERR <- None`. -/
def Status.decoded (f : Status) (t : Byte) : Status :=
  { f with rxv := true, tunk := !typeDefined t, ok := false, unck := false, err := .none }

/-- After a DECODE that fails (R97, R132). -/
def Status.malformed (f : Status) : Status :=
  { f with rxv := false, tunk := false, ok := false, unck := false, err := .malformedPacket }

/-- After a VALIDATE that found no packet (R120). -/
def Status.unjudged (f : Status) : Status := { f with ok := false, unck := false, err := .notReady }

/-- After a VALIDATE that reached a verdict (R114). -/
def Status.judged (f : Status) : Verdict → Status
  | .acceptChecked => { f with ok := true, unck := false, err := .none }
  | .acceptUnchecked => { f with ok := true, unck := true, err := .none }
  | .versionMismatch => { f with ok := false, unck := false, err := .versionMismatch }
  | .checksumMismatch => { f with ok := false, unck := false, err := .checksumMismatch }

end Sys2Proof.Machine
end

