-- ==== Sys2Proof/Machine/Ops.lean ====
section
/-! DEFINITION. The shared operations: bytes of a buffer, registers as the host reads and writes them, and the state
changes that several instructions share. `State.raise` is how a command ends with an outcome (R131): this hardware takes
no exception, saves nothing and returns from nothing (R131, R134), so there is no other entry and no return. -/

namespace Sys2Proof.Machine

/-! ### Bytes of a buffer -/

/-- The byte at an index: the listed one, else 0x00 (log 8). -/
def Memory.read : Memory → Nat → Byte
  | [], _ => Config.unlistedByte
  | (a, b) :: m, i => if a = i then b else Memory.read m i

/-- Store a byte that is not 0x00 at its place in the rising order, in place of the one listed there. -/
def Memory.insert : Memory → Nat → Byte → Memory
  | [], i, v => [(i, v)]
  | (a, b) :: m, i, v =>
    if i < a then (i, v) :: (a, b) :: m
    else if i = a then (i, v) :: m
    else (a, b) :: Memory.insert m i v

/-- List nothing at an index, so that it reads 0x00. -/
def Memory.erase (m : Memory) (i : Nat) : Memory := m.filter fun c => c.1 ≠ i

/-- Write one byte, keeping the canonical form: 0x00 is written by removing the entry. -/
def Memory.write (m : Memory) (i : Nat) (v : Byte) : Memory :=
  if v = Config.unlistedByte then m.erase i else m.insert i v

/-- Write a sequence of bytes at consecutive indices from `a`. -/
def Memory.writeBytes (m : Memory) (a : Nat) : List Byte → Memory
  | [] => m
  | b :: bs => Memory.write (Memory.writeBytes m (a + 1) bs) a b

/-- A whole buffer that holds `bs` from index 0 and 0x00 everywhere else: what a command does that "writes all" bytes of
a buffer (R35, R37). -/
def Memory.ofBytes (bs : List Byte) : Memory := Memory.writeBytes [] 0 bs

/-- `BUF[0 .. n-1]` (R9). -/
def Memory.bytes (m : Memory) (n : Nat) : List Byte := (List.range n).map m.read

/-- The canonical form: indices strictly rise and no entry is the byte an unlisted index reads as. -/
abbrev Memory.wf (m : Memory) : Prop :=
  m.Pairwise (fun c d => c.1 < d.1) ∧ ∀ c ∈ m, c.2 ≠ Config.unlistedByte

/-- Every listed index is below `n`, the buffer's size. -/
abbrev Memory.within (m : Memory) (n : Nat) : Prop := ∀ c ∈ m, c.1 < n

/-! ### Buffers and registers of the state -/

/-- A buffer of the state (R46). -/
def State.buf (s : State) : Buf → Memory
  | .txp => s.tx.txp
  | .txf => s.frame.txf
  | .rxf => s.gram.rxf
  | .rxp => s.rx.rxp

/-- `BUF[i]` (R10). -/
def State.readByte (s : State) (b : Buf) (i : Nat) : Byte := (s.buf b).read i

/-- `WRB` on an existing location: stored in `TXP` and `RXF`, ignored for `TXF` and `RXP` (R47, R49). -/
def State.writeByte (s : State) (b : Buf) (i : Nat) (v : Byte) : State :=
  match b with
  | .txp => { s with tx := { s.tx with txp := s.tx.txp.write i v } }
  | .rxf => { s with gram := { s.gram with rxf := s.gram.rxf.write i v } }
  | .txf | .rxp => s

/-- The value `RD` returns (R47): the register; for `CTRL` bit 0 is `CKEN` and the rest 0 (R17); for `CMD` 0 (R18). -/
def State.readReg (s : State) : (r : Reg) → BitVec r.width
  | .version => s.version
  | .ctrl => 0#7 ++ BitVec.ofBool s.cken
  | .cmd => 0x00#8
  | .status => s.status.word
  | .txType => s.tx.typ
  | .txFlags => s.tx.flags
  | .txRsvd => s.tx.rsvd
  | .txSeq => s.tx.seq
  | .txLen => s.tx.len
  | .txCksum => s.frame.cksum
  | .txfLen => s.frame.len
  | .rxfLen => s.gram.len
  | .rxVer => s.rx.ver
  | .rxType => s.rx.typ
  | .rxFlags => s.rx.flags
  | .rxRsvd => s.rx.rsvd
  | .rxSeq => s.rx.seq
  | .rxPlen => s.rx.plen
  | .rxCksum => s.rx.cksum
  | .rxCalc => s.rx.computed
  | .sum => s.sum

/-- `min(v, 524)` (R29): what `WR RXF_LEN` stores. -/
def saturateLen (v : Len) : Len := BitVec.ofNat 10 (min v.toNat Config.maxFrame)

/-- What `WR reg, v` stores (R48): `CTRL` keeps bit 0, `RXF_LEN` saturates, a read-only register keeps its value (R49),
and `CMD` stores nothing (R51; the command it starts is `State.perform`'s). -/
def State.writeReg (s : State) : (r : Reg) → BitVec r.width → State
  | .ctrl, v => { s with cken := v.getLsbD 0 }
  | .txType, v => { s with tx := { s.tx with typ := v } }
  | .txFlags, v => { s with tx := { s.tx with flags := v } }
  | .txRsvd, v => { s with tx := { s.tx with rsvd := v } }
  | .txSeq, v => { s with tx := { s.tx with seq := v } }
  | .txLen, v => { s with tx := { s.tx with len := v } }
  | .rxfLen, v => { s with gram := { s.gram with len := saturateLen v } }
  | .version, _ | .cmd, _ | .status, _ | .txCksum, _ | .txfLen, _ | .rxVer, _ | .rxType, _ | .rxFlags, _
  | .rxRsvd, _ | .rxSeq, _ | .rxPlen, _ | .rxCksum, _ | .rxCalc, _ | .sum, _ => s

/-! ### What commands share -/

/-- `RXF[0 .. RXF_LEN-1]`, the bytes of the received datagram (R36). -/
def State.datagram (s : State) : List Byte := s.gram.rxf.bytes s.gram.len.toNat

/-- `TXF[0 .. TXF_LEN-1]`, the encoded frame (R35). -/
def State.encodedFrame (s : State) : List Byte := s.frame.txf.bytes s.frame.len.toNat

/-- The decoded packet as one value (R43), meant while `RXV` is 1. -/
def State.heldPacket (s : State) : Packet where
  header :=
    { version := s.rx.ver, typ := s.rx.typ, flags := s.rx.flags, reserved := s.rx.rsvd, sequence := s.rx.seq,
      payloadLength := s.rx.plen, checksum := s.rx.cksum }
  payload := s.rx.rxp.bytes s.rx.plen.toNat

/-- `raise E` (R10, R131), and `ERR <- None` for a command that succeeds with no other flag: the command ends with that
outcome, and nothing but `STATUS.ERR` changes. -/
def State.raise (s : State) (e : ErrorCode) : State := { s with status := s.status.ended e }

/-- The writes of a DECODE that succeeds on packet `p` (R97): the unpacked fields, `RXP` all 512 bytes, `RX_CALC` 0. -/
def State.holdPacket (s : State) (p : Packet) : State :=
  { s with
    rx :=
      { ver := p.header.version, typ := p.header.typ, flags := p.header.flags, rsvd := p.header.reserved,
        seq := p.header.sequence, plen := p.header.payloadLength, cksum := p.header.checksum,
        computed := 0x0000#16, rxp := Memory.ofBytes p.payload }
    status := s.status.decoded p.header.typ }

/-- The writes of a DECODE that fails (R97, R132): no packet is held. -/
def State.dropPacket (s : State) : State := { s with rx := RxPacket.reset, status := s.status.malformed }

/-- DECODE of a byte sequence: the state change of R97 over the pure function of R103. -/
def State.receive (s : State) (bs : List Byte) : State :=
  match decodePacket bs with
  | .ok p => s.holdPacket p
  | .error _ => s.dropPacket

/-- Every register and buffer at its reset value (R41); `VERSION` still reads `SCP_VERSION`. What the host will do and
has been given back is not the block's and stays (log 16). -/
def State.resetBlock (s : State) : State :=
  { State.reset with version := s.version, pending := s.pending, returned := s.returned }

end Sys2Proof.Machine
end

