-- ==== Sys2Proof/Machine/Checksum.lean ====
section
/-! DEFINITION. CSUM (42_checksum.md): the raw checksum of the received bytes. -/

namespace Sys2Proof.Machine

/-- CSUM (R109): `SUM <- ByteSum(RXF[0 .. RXF_LEN-1])`, nothing zeroed, `ERR <- None`. -/
def execCsum (s : State) : Host.Outcome State Fault Refusal := .next { s.raise .none with sum := byteSum s.datagram }

end Sys2Proof.Machine
end

