-- ==== Sys2Proof/Machine/Control.lean ====
section
/-! DEFINITION. LOOP and RESET (44_control.md). -/

namespace Sys2Proof.Machine

/-- LOOP (R123): copy the encoded frame into the receive buffer; bytes of `RXF` beyond it stay. `NotReady` when no frame
has been encoded (R124). -/
def execLoop (s : State) : Host.Outcome State Fault Refusal :=
  if s.status.txv then
    .next
      { s.raise .none with
        gram := { len := s.frame.len, rxf := s.gram.rxf.writeBytes 0 s.encodedFrame } }
  else .next (s.raise .notReady)

/-- RESET (R126): the reset state, as after the hardware reset (R127). -/
def execReset (s : State) : Host.Outcome State Fault Refusal := .next s.resetBlock

end Sys2Proof.Machine
end

