-- ==== Sys2Proof/Machine/Frames.lean ====
section
/-! DEFINITION. The seven frame rows (R71 to R77). A frame is data that a command works on: "built by ENCODE (rule R89),
taken apart by DECODE (rule R97)". As an instruction it means what the block does on receiving it: DECODE of its bytes.
DEDUCED, safe (log 5). A datagram longer than the receive buffer is cut to 524 bytes, as R29 says (log 15). -/

namespace Sys2Proof.Machine

/-- DECODE of the frame with type code `t` and operands `f`: "DECODE of such a frame gives `RX_TYPE` equal to the code
and `STATUS.TUNK = 0`" (30_encoding.md, before R71). -/
def execFrame (t : Byte) (f : FrameOperands) (s : State) : Host.Outcome State Fault Refusal :=
  .next (s.receive ((f.packet t).bytes.take Config.maxFrame))

/-- SYN (R71). -/
def execSyn (f : FrameOperands) (s : State) : Host.Outcome State Fault Refusal := execFrame 0x01#8 f s

/-- SYN-ACK (R72). -/
def execSynAck (f : FrameOperands) (s : State) : Host.Outcome State Fault Refusal := execFrame 0x02#8 f s

/-- ACK (R73). -/
def execAck (f : FrameOperands) (s : State) : Host.Outcome State Fault Refusal := execFrame 0x03#8 f s

/-- MSG (R74). -/
def execMsg (f : FrameOperands) (s : State) : Host.Outcome State Fault Refusal := execFrame 0x10#8 f s

/-- MSG-ACK (R75). -/
def execMsgAck (f : FrameOperands) (s : State) : Host.Outcome State Fault Refusal := execFrame 0x11#8 f s

/-- FIN (R76). -/
def execFin (f : FrameOperands) (s : State) : Host.Outcome State Fault Refusal := execFrame 0x20#8 f s

/-- FIN-ACK (R77). -/
def execFinAck (f : FrameOperands) (s : State) : Host.Outcome State Fault Refusal := execFrame 0x21#8 f s

end Sys2Proof.Machine
end

