-- ==== Sys2Proof/Machine/Receive.lean ====
section
/-! DEFINITION. The receive side: DECODE (41_decode.md) and VALIDATE (43_validate.md). -/

namespace Sys2Proof.Machine

/-- DECODE (R97): turn the received bytes into a packet, or report `MalformedPacket`. -/
def execDecode (s : State) : Host.Outcome State Fault Refusal := .next (s.receive s.datagram)

/-- VALIDATE (R114): judge the decoded packet. Without one it reports `NotReady` (R120); else it writes the computed sum
to `RX_CALC`, whatever the verdict (R115). -/
def execValidate (s : State) : Host.Outcome State Fault Refusal :=
  if s.status.rxv then
    .next
      { s with
        rx := { s.rx with computed := checksumOf s.heldPacket }
        status := s.status.judged (validatePacket s.version s.heldPacket) }
  else .next { s with status := s.status.unjudged }

end Sys2Proof.Machine
end

