-- ==== Sys2Proof/Machine/Transmit.lean ====
section
/-! DEFINITION. The transmit side: ENCODE (40_encode.md). -/

namespace Sys2Proof.Machine

/-- ENCODE (R89): build the frame of one packet in `TXF`. It never fails (R93). -/
def execEncode (s : State) : Host.Outcome State Fault Refusal :=
  let n := payloadCount s.tx.len
  let p := encodePacket s.version s.cken s.tx.typ s.tx.flags s.tx.rsvd s.tx.seq s.tx.len (s.tx.txp.bytes n)
  .next
    { s with
      frame :=
        { cksum := p.header.checksum, len := BitVec.ofNat 10 (Config.hdrSize + n), txf := Memory.ofBytes p.bytes }
      status := s.status.encoded }

end Sys2Proof.Machine
end

