-- ==== Sys2Proof/Machine/Dispatch.lean ====
section
/-! DEFINITION. One arm per instruction. -/

namespace Sys2Proof.Machine

def exec (i : Instr) (s : State) : Host.Outcome State Fault Refusal :=
  match i with
  | .syn f => Sys2Proof.Machine.execSyn f s
  | .synAck f => Sys2Proof.Machine.execSynAck f s
  | .ack f => Sys2Proof.Machine.execAck f s
  | .msg f => Sys2Proof.Machine.execMsg f s
  | .msgAck f => Sys2Proof.Machine.execMsgAck f s
  | .fin f => Sys2Proof.Machine.execFin f s
  | .finAck f => Sys2Proof.Machine.execFinAck f s
  | .encode => Sys2Proof.Machine.execEncode s
  | .decode => Sys2Proof.Machine.execDecode s
  | .validate => Sys2Proof.Machine.execValidate s
  | .csum => Sys2Proof.Machine.execCsum s
  | .loop => Sys2Proof.Machine.execLoop s
  | .reset => Sys2Proof.Machine.execReset s

end Sys2Proof.Machine
end

