-- ==== Sys2Proof/Machine/Bus.lean ====
section
/-! DEFINITION. What each event does to the block: the four host accesses (R47 to R51) and the hardware reset (R151). -/

namespace Sys2Proof.Machine

/-- `WR CMD, c` (R51): run the command with code `c`; any other code is `IllegalCommand` and changes nothing else
(R80). -/
def runCommand (c : Byte) (s : State) : Host.Outcome State Fault Refusal :=
  match decode (.command c) with
  | .ok i => exec i s
  | .error _ => .next (s.raise .illegalCommand)

/-- What a read gave back to the host (log 3). -/
def State.give (s : State) (a : Answer) : State := { s with returned := a :: s.returned }

/-- `RD reg` (R47): the host gets the register's value; the block does not change (R55). -/
def performRd (r : Reg) (s : State) : Host.Outcome State Fault Refusal := .next (s.give (.reg r (s.readReg r)))

/-- `WR reg, v` (R48, R49, R51). -/
def performWr (r : Reg) (v : BitVec r.width) (s : State) : Host.Outcome State Fault Refusal :=
  match r, v with
  | .cmd, v => runCommand v s
  | r, v => .next (s.writeReg r v)

/-- `RDB buf, i` (R47); an index outside the buffer is refused (R50). -/
def performRdb (b : Buf) (i : Nat) (s : State) : Host.Outcome State Fault Refusal :=
  if i < b.size then .next (s.give (.byte b i (s.readByte b i))) else .refused (.noSuchIndex b i)

/-- `WRB buf, i, v` (R47); an index outside the buffer is refused (R50). -/
def performWrb (b : Buf) (i : Nat) (v : Byte) (s : State) : Host.Outcome State Fault Refusal :=
  if i < b.size then .next (s.writeByte b i v) else .refused (.noSuchIndex b i)

/-- One event, as one atomic step (R47, R56, R151). -/
def perform (e : Event) (s : State) : Host.Outcome State Fault Refusal :=
  match e with
  | .rd r => performRd r s
  | .wr r v => performWr r v s
  | .rdb b i => performRdb b i s
  | .wrb b i v => performWrb b i v s
  | .hardReset => .next s.resetBlock
  | .noRegister k => .refused (.noSuchRegister (21 + k))
  | .noBuffer k _ => .refused (.noSuchBuffer (4 + k))

/-- The next event is taken from the front of the list. -/
def State.taken (s : State) (rest : List Event) : State := { s with pending := rest }

/-- A block to which nothing happens keeps its state: "it is idle between host accesses and all its state persists until
reset" (R146; log 2). Otherwise the first waiting event happens. -/
def nextEvent (s : State) : Host.Outcome State Fault Refusal :=
  match s.pending with
  | [] => .next s
  | e :: rest => perform e (s.taken rest)

/-- The state with a command byte as the host's next write to `CMD`. -/
def State.withCommand (s : State) (c : Byte) : State := { s with pending := .wr .cmd c :: s.pending }

/-- The state with a byte sequence as the received datagram (`RXF` from index 0, `RXF_LEN`), and DECODE as the host's
next command. -/
def State.withDatagram (s : State) (bs : List Byte) : State :=
  { s with
    gram := { len := BitVec.ofNat 10 (min bs.length Config.maxFrame), rxf := Memory.ofBytes bs }
    pending := .wr .cmd 0x02#8 :: s.pending }

end Sys2Proof.Machine
end

