-- ==== Sys2Proof/Machine/Step.lean ====
section
/-! DEFINITION. One step: the next event happens (R31: "its step takes the next host access as an input"). There is no
fetch: an instruction reaches the block as a write of its code to `CMD` (R18) or as a datagram that DECODE takes apart
(R97); withFetchWord places it there (log 7). -/

namespace Sys2Proof.Machine

def step (s : State) : Host.Outcome State Fault Refusal := nextEvent s

/-- `s` with the instruction of a table row as the very next thing that happens: 8 bits are written to `CMD`; 96 bits
are a frame header, which is placed in `RXF` with its payload bytes of zero and `RXF_LEN`, and the host's next access is
`CMD DECODE`. -/
def State.withFetchWord (s : State) (nbits w : Nat) : State :=
  if nbits = 8 then s.withCommand (BitVec.ofNat 8 w)
  else if nbits = 96 then s.withDatagram (withZeroPayload (tableHeaderBytes w))
  else s

end Sys2Proof.Machine
end

