-- ==== Sys2Proof/Safety.lean ====
section
/-! DEFINITION. What claims are stated in: what two states share as the host reads them, the reset values (R41), the
invariants of the block (R42), the states that a host can bring about, and the plain sums of R92 and R114. -/

namespace Sys2Proof.Machine

/-- Two states agree, as the host reads them, on every register but those of `rs` and on every byte of every buffer but
those of `bs`. -/
def SameExcept (rs : List Reg) (bs : List Buf) (s t : State) : Prop :=
  (∀ r, r ∉ rs → t.readReg r = s.readReg r) ∧ ∀ b, b ∉ bs → ∀ i, t.readByte b i = s.readByte b i

/-- Two states agree on the model's own fields: what the host will do, and what it has been given. -/
def SameHost (s t : State) : Prop := t.pending = s.pending ∧ t.returned = s.returned

/-- The registers of the decoded packet (R30, R32). -/
def packetRegs : List Reg := [.rxVer, .rxType, .rxFlags, .rxRsvd, .rxSeq, .rxPlen, .rxCksum, .rxCalc]

/-- Every register and buffer byte has the value of R41: zero, but `CTRL` reads 0x01 and `VERSION` is not said here. -/
def State.AtReset (s : State) : Prop :=
  s.readReg .ctrl = 0x01#8 ∧ (∀ r, r ≠ .ctrl → r ≠ .version → s.readReg r = 0#r.width)
    ∧ ∀ b i, s.readByte b i = 0x00#8

/-- The invariants of R42 and of R20, R21, R24, R35, R37, and that every buffer is in canonical form within its size
(R34 to R37, log 8). -/
structure State.Inv (s : State) : Prop where
  /-- Canonical form of the four buffers. -/
  buf_wf : ∀ b, (s.buf b).wf
  /-- No byte beyond a buffer's end. -/
  buf_within : ∀ b, (s.buf b).within b.size
  /-- "`TXF_LEN = 0` or `12 <= TXF_LEN <= 524`" (R42). -/
  txf_len : s.frame.len = 0#10 ∨ (12 ≤ s.frame.len.toNat ∧ s.frame.len.toNat ≤ 524)
  /-- "`TXV = 0` exactly when `TXF_LEN = 0`" (R42). -/
  txv_iff : s.status.txv = false ↔ s.frame.len = 0#10
  /-- "While `TXV = 0`, `TXF_LEN = 0`, `TX_CKSUM = 0` and `TXF` is all zero" (R20). -/
  no_frame : s.status.txv = false → s.frame = TxFrame.reset
  /-- The version byte of the frame (R42). -/
  frame_version : s.status.txv = true → s.frame.txf.read 0 = s.version
  /-- The length field of the frame (R42). -/
  frame_plen : s.status.txv = true →
    (be16 (s.frame.txf.read 8) (s.frame.txf.read 9)).toNat = s.frame.len.toNat - 12
  /-- The checksum field of the frame (R42). -/
  frame_cksum : s.status.txv = true → be16 (s.frame.txf.read 10) (s.frame.txf.read 11) = s.frame.cksum
  /-- `TXF` is 0x00 from `TXF_LEN` up (R35). -/
  frame_end : ∀ i, s.frame.len.toNat ≤ i → s.frame.txf.read i = 0x00#8
  /-- "`RXF_LEN <= 524`" (R42). -/
  rxf_len : s.gram.len.toNat ≤ 524
  /-- "`RX_PLEN <= 512`" (R42). -/
  rx_plen : s.rx.plen.toNat ≤ 512
  /-- `RXP` is 0x00 from `RX_PLEN` up (R37). -/
  rxp_end : ∀ i, s.rx.plen.toNat ≤ i → s.rx.rxp.read i = 0x00#8
  /-- While `RXV = 0` no packet is held (R21, R42). -/
  no_packet : s.status.rxv = false →
    s.rx = RxPacket.reset ∧ s.status.ok = false ∧ s.status.unck = false ∧ s.status.tunk = false
  /-- `TUNK` marks the undefined types (R24). -/
  tunk_iff : s.status.rxv = true → s.status.tunk = !typeDefined s.rx.typ
  /-- "`UNCK = 1` implies `OK = 1`" (R42). -/
  unck_ok : s.status.unck = true → s.status.ok = true
  /-- "`OK = 1` implies `RXV = 1` and `RX_VER = SCP_VERSION`" (R42). -/
  ok_version : s.status.ok = true → s.status.rxv = true ∧ s.rx.ver = s.version
  /-- `UNCK` says which acceptance it was, and a checked one means that the sums are equal (R22, R23). -/
  ok_verdict : s.status.ok = true →
    s.rx.computed = checksumOf s.heldPacket
      ∧ (s.status.unck = true ↔ s.rx.cksum = 0x0000#16)
      ∧ (s.status.unck = false → s.rx.cksum = s.rx.computed)

/-- The states that a host can bring about from reset (R140: "a run is whatever finite sequence of host accesses the
host performs"), whatever it does. -/
inductive Reachable : State → Prop where
  | start (es : List Event) : Reachable { State.reset with pending := es }
  | next {s t : State} : Reachable s → step s = .next t → Reachable t

/-- Whether an event names a location of the block (R50). -/
def Event.named : Event → Bool
  | .rd _ | .wr _ _ | .hardReset => true
  | .rdb b i | .wrb b i _ => i < b.size
  | .noRegister _ | .noBuffer _ _ => false

/-- The sum of the bytes `f 0`, …, `f (n-1)`, on unbounded numbers. -/
def total (n : Nat) (f : Nat → Byte) : Nat := ((List.range n).map fun i => (f i).toNat).sum

/-- The sum of the four bytes of a 32-bit number. -/
def total32 (v : Word) : Nat :=
  v.toNat / 2 ^ 24 + v.toNat / 2 ^ 16 % 256 + v.toNat / 2 ^ 8 % 256 + v.toNat % 256

/-- The sum of the two bytes of a 16-bit number. -/
def total16 (v : Half) : Nat := v.toNat / 2 ^ 8 + v.toNat % 256

end Sys2Proof.Machine
end

