-- ==== Sys2Proof/Certificates/Slice0/Obligations.lean ====
section
/-! DEFINITION. The statements for the provers. Each docstring names the rules it formalises; a part that is the
model's own choice names its log entry. -/

open Sys2Proof Sys2Proof.Machine

/-! ### Reset -/

/-- R41, R126, R127, R151: after reset every register and byte is zero but `CTRL.CKEN` = 1 and `VERSION`, which reads
`SCP_VERSION`; RESET and the hardware reset leave every state so. -/
def Obligations.ResetStateAndResetCommand : Prop :=
  State.reset.AtReset ∧ State.reset.readReg .version = Config.scpVersion ∧
  decode (.command 0x06#8) = .ok .reset ∧
  ∀ s : State, ∃ t, exec .reset s = .next t ∧ perform .hardReset s = .next t ∧ t.AtReset ∧
    t.readReg .version = s.readReg .version

/-- What the model adds to R126 and R127 (log 16): a reset keeps the host's two lists, and nothing else of a run that
began at reset. -/
def Obligations.ResetKeepsOnlyTheHostsLists : Prop :=
  ∀ s : State, Reachable s →
    exec .reset s = .next { State.reset with pending := s.pending, returned := s.returned } ∧
    perform .hardReset s = .next { State.reset with pending := s.pending, returned := s.returned }

/-- The invariant holds at reset, whatever the host is going to do. -/
def Obligations.ResetStateMeetsInvariant : Prop := ∀ es : List Event, State.Inv { State.reset with pending := es }

/-- R155, R154: each command straight after reset. -/
def Obligations.CommandsStraightAfterReset : Prop :=
  (∃ t, exec .decode State.reset = .next t ∧ t.status.err = .malformedPacket) ∧
  (∃ t, exec .validate State.reset = .next t ∧ t.status.err = .notReady) ∧
  (∃ t, exec .loop State.reset = .next t ∧ t.status.err = .notReady) ∧
  (∃ t, exec .csum State.reset = .next t ∧ t.readReg .sum = 0x0000#16 ∧ t.status.err = .none) ∧
  (∃ t, exec .encode State.reset = .next t ∧ t.readReg .txfLen = 12#10 ∧
    t.readReg .txCksum = Config.scpVersion.setWidth 16 ∧
    t.encodedFrame = [Config.scpVersion, 0, 0, 0, 0, 0, 0, 0, 0, 0, 0, Config.scpVersion])

/-! ### The machine as a whole -/

/-- Every step keeps the invariants of R42, from every state that meets them. -/
def Obligations.StepKeepsInvariant : Prop :=
  ∀ s t : State, s.Inv → step s = .next t → t.Inv

/-- R42, in every reachable state, as the host reads it. -/
def Obligations.ReachableStatesMeetR42 : Prop :=
  ∀ s : State, Reachable s →
    let l := (s.readReg .txfLen).toNat
    (l = 0 ∨ (12 ≤ l ∧ l ≤ 524)) ∧ (s.status.txv = false ↔ l = 0) ∧
    (s.readReg .rxfLen).toNat ≤ 524 ∧ (s.readReg .rxPlen).toNat ≤ 512 ∧
    (s.status.rxv = false →
      (∀ r ∈ packetRegs, s.readReg r = 0#r.width) ∧ (∀ i, s.readByte .rxp i = 0x00#8) ∧
      s.status.ok = false ∧ s.status.unck = false ∧ s.status.tunk = false) ∧
    (s.status.unck = true → s.status.ok = true) ∧
    (s.status.ok = true → s.status.rxv = true ∧ s.readReg .rxVer = Config.scpVersion) ∧
    (s.status.txv = true →
      s.readByte .txf 0 = Config.scpVersion ∧
      (be16 (s.readByte .txf 8) (s.readByte .txf 9)).toNat = l - 12 ∧
      be16 (s.readByte .txf 10) (s.readByte .txf 11) = s.readReg .txCksum) ∧
    (s.readReg .status).extractLsb' 5 3 = 0#3 ∧ (s.readReg .status).extractLsb' 11 5 = 0#5 ∧
    ((s.readReg .status).extractLsb' 8 3).toNat ≤ 5

/-- When `OK` is 1 in a reachable state, the policy of R122 accepts the packet that is held, and `UNCK` says whether the
acceptance was without a comparison (R22, R23). -/
def Obligations.OkMeansThePolicyAccepts : Prop :=
  ∀ s : State, Reachable s → s.status.ok = true →
    validatePacket Config.scpVersion s.heldPacket =
      if s.status.unck then Verdict.acceptUnchecked else Verdict.acceptChecked

/-- The step performs the next waiting event on the state from which it is taken. The list of events is the model's
(log 1). -/
def Obligations.StepPerformsTheNextEvent : Prop :=
  ∀ (s : State) (e : Event) (rest : List Event), s.pending = e :: rest → step s = perform e (s.taken rest)

/-- When the host's next access writes to `CMD` the code of an instruction, the step is that instruction on the state
from which the access is taken. The list of events is the model's (log 1). -/
def Obligations.StepRunsTheCommandWritten : Prop :=
  ∀ (s : State) (c : Byte) (i : Instr) (rest : List Event),
    s.pending = .wr .cmd c :: rest → decode (.command c) = .ok i → step s = exec i (s.taken rest)

/-- When the host's next access is `CMD DECODE` and the received bytes begin with a frame of the type table, the step is
that frame's instruction (log 5). -/
def Obligations.StepRunsTheFrameReceived : Prop :=
  ∀ (s : State) (i : Instr) (rest : List Event),
    s.pending = .wr .cmd 0x02#8 :: rest → decode (.datagram s.datagram) = .ok i → step s = exec i (s.taken rest)

/-- R51: a write to `CMD` runs the command with that code, or is an illegal command, and `CMD` stores nothing. -/
def Obligations.WritingCmdRunsTheCommand : Prop :=
  ∀ (s : State) (c : Byte),
    (∀ i, decode (.command c) = .ok i → perform (.wr .cmd c) s = exec i s) ∧
    ((∀ i, decode (.command c) ≠ .ok i) →
      ∃ t, perform (.wr .cmd c) s = .next t ∧ t.status.err = .illegalCommand) ∧
    ∀ t, perform (.wr .cmd c) s = .next t → t.readReg .cmd = 0x00#8

/-- R80: a byte is a command exactly when it is 0x01 to 0x06; writing any other sets `ERR` to `IllegalCommand` and
changes nothing else. -/
def Obligations.IllegalCodeOnlySetsErr : Prop :=
  (∀ c : Byte, (∃ i, decode (.command c) = .ok i) ↔ 1 ≤ c.toNat ∧ c.toNat ≤ 6) ∧
  ∀ (s : State) (c : Byte), (c.toNat = 0 ∨ 7 ≤ c.toNat) →
    ∃ t, perform (.wr .cmd c) s = .next t ∧ t.status = { s.status with err := .illegalCommand } ∧
      SameExcept [.status] [] s t

/-- With no event waiting the block keeps its state (R146, log 2). -/
def Obligations.IdleBlockKeepsItsState : Prop := ∀ s : State, s.pending = [] → step s = .next s

/-- The block is never stuck and never faults (R139): an event that names a location of the block has a next state, and
any other is refused. -/
def Obligations.EveryNamedAccessHasAStep : Prop :=
  ∀ (e : Event) (s : State),
    (e.named = true → ∃ t, perform e s = .next t) ∧ (e.named = false → ∃ r, perform e s = .refused r)

/-- No step changes `VERSION` (R16). -/
def Obligations.NoStepChangesVersion : Prop :=
  ∀ s t : State, step s = .next t → t.readReg .version = s.readReg .version

/-- No instruction depends on the outcome of the command before it (R131, R134). -/
def Obligations.NoCommandDependsOnErr : Prop :=
  ∀ (i : Instr) (s : State) (e : ErrorCode), exec i { s with status := { s.status with err := e } } = exec i s

/-- The model's own fields (log 1, log 3, log 16): no instruction changes what the host will do or has been given, and
of the events only the two reads add to what it has been given. -/
def Obligations.OnlyReadsReturnValues : Prop :=
  (∀ (i : Instr) (s t : State), exec i s = .next t → SameHost s t) ∧
  ∀ (e : Event) (s t : State), perform e s = .next t →
    t.pending = s.pending ∧ ((∀ r, e ≠ .rd r) → (∀ b i, e ≠ .rdb b i) → t.returned = s.returned)

/-- The frame of the commands, from the "writes" column of R44: every other register, every other flag and every other
byte keeps its value. RESET writes everything. -/
def Obligations.CommandsWriteOnlyWhatIsListed : Prop :=
  ∀ s : State,
    (∃ t, exec .encode s = .next t ∧ SameExcept [.txCksum, .txfLen, .status] [.txf] s t ∧
      ∃ txv err, t.status = { s.status with txv := txv, err := err }) ∧
    (∃ t, exec .decode s = .next t ∧ SameExcept (.status :: packetRegs) [.rxp] s t ∧
      ∃ rxv tunk err, t.status = { s.status with rxv := rxv, tunk := tunk, ok := false, unck := false, err := err }) ∧
    (∃ t, exec .validate s = .next t ∧ SameExcept [.rxCalc, .status] [] s t ∧
      (s.status.rxv = false → t.readReg .rxCalc = s.readReg .rxCalc) ∧
      ∃ ok unck err, t.status = { s.status with ok := ok, unck := unck, err := err }) ∧
    (∃ t, exec .csum s = .next t ∧ SameExcept [.sum, .status] [] s t ∧
      ∃ err, t.status = { s.status with err := err }) ∧
    (∃ t, exec .loop s = .next t ∧ SameExcept [.rxfLen, .status] [.rxf] s t ∧
      (∀ i, s.frame.len.toNat ≤ i → t.readByte .rxf i = s.readByte .rxf i) ∧
      ∃ err, t.status = { s.status with err := err }) ∧
    (∀ c : Byte, (∀ i, decode (.command c) ≠ .ok i) →
      ∃ t, perform (.wr .cmd c) s = .next t ∧ SameExcept [.status] [] s t ∧
        ∃ err, t.status = { s.status with err := err })

/-- The "reads" column of R44 and R39: what a command writes depends only on what it reads. -/
def Obligations.CommandsReadOnlyWhatIsListed : Prop :=
  ∀ s s' t t' : State,
    (exec .encode s = .next t → exec .encode s' = .next t' →
      (∀ r ∈ [Reg.version, .ctrl, .txType, .txFlags, .txRsvd, .txSeq, .txLen], s.readReg r = s'.readReg r) →
      (∀ i, i < (s.readReg .txLen).toNat → i < 512 → s.readByte .txp i = s'.readByte .txp i) →
      (∀ r ∈ [Reg.txCksum, .txfLen], t.readReg r = t'.readReg r) ∧ (∀ i, t.readByte .txf i = t'.readByte .txf i) ∧
        t.status.txv = t'.status.txv ∧ t.status.err = t'.status.err) ∧
    (exec .decode s = .next t → exec .decode s' = .next t' →
      s.readReg .rxfLen = s'.readReg .rxfLen →
      (∀ i, i < (s.readReg .rxfLen).toNat → s.readByte .rxf i = s'.readByte .rxf i) →
      (∀ r ∈ packetRegs, t.readReg r = t'.readReg r) ∧ (∀ i, t.readByte .rxp i = t'.readByte .rxp i) ∧
        t.status.rxv = t'.status.rxv ∧ t.status.tunk = t'.status.tunk ∧ t.status.ok = t'.status.ok ∧
        t.status.unck = t'.status.unck ∧ t.status.err = t'.status.err) ∧
    (exec .validate s = .next t → exec .validate s' = .next t' →
      s.readReg .version = s'.readReg .version → s.status.rxv = s'.status.rxv →
      (∀ r ∈ [Reg.rxVer, .rxType, .rxFlags, .rxRsvd, .rxSeq, .rxPlen, .rxCksum], s.readReg r = s'.readReg r) →
      (∀ i, i < (s.readReg .rxPlen).toNat → s.readByte .rxp i = s'.readByte .rxp i) →
      (s.status.rxv = true → t.readReg .rxCalc = t'.readReg .rxCalc) ∧ t.status.ok = t'.status.ok ∧
        t.status.unck = t'.status.unck ∧ t.status.err = t'.status.err) ∧
    (exec .csum s = .next t → exec .csum s' = .next t' →
      s.readReg .rxfLen = s'.readReg .rxfLen →
      (∀ i, i < (s.readReg .rxfLen).toNat → s.readByte .rxf i = s'.readByte .rxf i) →
      t.readReg .sum = t'.readReg .sum ∧ t.status.err = t'.status.err) ∧
    (exec .loop s = .next t → exec .loop s' = .next t' →
      s.status.txv = s'.status.txv → s.readReg .txfLen = s'.readReg .txfLen →
      (∀ i, i < (s.readReg .txfLen).toNat → s.readByte .txf i = s'.readByte .txf i) →
      (s.status.txv = true → t.readReg .rxfLen = t'.readReg .rxfLen ∧
        ∀ i, i < (s.readReg .txfLen).toNat → t.readByte .rxf i = t'.readByte .rxf i) ∧
        t.status.err = t'.status.err)

/-- R158: `TXF`, `TXF_LEN`, `TX_CKSUM` and `TXV` are a snapshot: no event but `CMD ENCODE`, `CMD RESET` and the hardware
reset changes them. -/
def Obligations.FrameIsASnapshot : Prop :=
  ∀ (e : Event) (s t : State), perform e s = .next t →
    e ≠ .wr .cmd 0x01#8 → e ≠ .wr .cmd 0x06#8 → e ≠ .hardReset →
    t.readReg .txfLen = s.readReg .txfLen ∧ t.readReg .txCksum = s.readReg .txCksum ∧
      t.status.txv = s.status.txv ∧ ∀ i, t.readByte .txf i = s.readByte .txf i

/-- The decoded packet is a snapshot (R159, R21): no event but `CMD DECODE`, `CMD RESET` and the hardware reset
changes the registers DECODE unpacks, `RXP` or `RXV`. -/
def Obligations.DecodedPacketIsASnapshot : Prop :=
  ∀ (e : Event) (s t : State), perform e s = .next t →
    e ≠ .wr .cmd 0x02#8 → e ≠ .wr .cmd 0x06#8 → e ≠ .hardReset →
    (∀ r ∈ [Reg.rxVer, .rxType, .rxFlags, .rxRsvd, .rxSeq, .rxPlen, .rxCksum], t.readReg r = s.readReg r) ∧
      t.status.rxv = s.status.rxv ∧ ∀ i, t.readByte .rxp i = s.readByte .rxp i

/-! ### Encodings -/

/-- R68, and that a header has 12 bytes (R66): packing and unpacking are inverse to each other. -/
def Obligations.PackAndUnpackAreInverse : Prop :=
  (∀ h : Header, (packHeader h).length = 12 ∧ unpackHeader (packHeader h) = h) ∧
  ∀ bs : List Byte, bs.length = 12 → packHeader (unpackHeader bs) = bs

/-- R66, R67: the place and the byte order of every header field, with R66's example. -/
def Obligations.HeaderLayoutIsBigEndian : Prop :=
  (∀ h : Header, let b := packHeader h
    b.length = 12 ∧ byteAt b 0 = h.version ∧ byteAt b 1 = h.typ ∧ byteAt b 2 = h.flags ∧ byteAt b 3 = h.reserved ∧
    h.sequence.toNat = (byteAt b 4).toNat * 2 ^ 24 + (byteAt b 5).toNat * 2 ^ 16 + (byteAt b 6).toNat * 2 ^ 8
      + (byteAt b 7).toNat ∧
    h.payloadLength.toNat = (byteAt b 8).toNat * 256 + (byteAt b 9).toNat ∧
    h.checksum.toNat = (byteAt b 10).toNat * 256 + (byteAt b 11).toNat) ∧
  (∀ b : List Byte, b.length = 12 → let h := unpackHeader b
    h.version = byteAt b 0 ∧ h.typ = byteAt b 1 ∧ h.flags = byteAt b 2 ∧ h.reserved = byteAt b 3 ∧
    h.sequence.toNat = (byteAt b 4).toNat * 2 ^ 24 + (byteAt b 5).toNat * 2 ^ 16 + (byteAt b 6).toNat * 2 ^ 8
      + (byteAt b 7).toNat ∧
    h.payloadLength.toNat = (byteAt b 8).toNat * 256 + (byteAt b 9).toNat ∧
    h.checksum.toNat = (byteAt b 10).toNat * 256 + (byteAt b 11).toNat) ∧
  packHeader ⟨0x01#8, 0x10#8, 0xA5#8, 0x5A#8, 0x12345678#32, 0x0002#16, 0x0325#16⟩ =
    [0x01#8, 0x10#8, 0xA5#8, 0x5A#8, 0x12#8, 0x34#8, 0x56#8, 0x78#8, 0x00#8, 0x02#8, 0x03#8, 0x25#8]

/-- Every well-formed instruction decodes from its own encoding, with every operand. -/
def Obligations.DecodeOfEncodeIsTheInstruction : Prop :=
  ∀ i : Instr, i.wf = true → decode (encode i) = .ok i

/-- What the decoder accepts is well-formed, and its encoding is the code it was read from: the command byte, or the
first `12 + payload_length` bytes of the datagram (R69). -/
def Obligations.EncodeOfDecodeIsTheCode : Prop :=
  (∀ (c : Byte) (i : Instr), decode (.command c) = .ok i → encode i = .command c) ∧
  ∀ (bs : List Byte) (i : Instr), decode (.datagram bs) = .ok i →
    i.wf = true ∧ encode i = .datagram (bs.take (12 + (unpackHeader bs).payloadLength.toNat))

/-- The example frames of R71 to R77 and the codes of R78, as words. -/
def Obligations.SpecWordsDecode : Prop :=
  decode (.datagram [0x01, 0x01, 0x00, 0x00, 0x00, 0x00, 0x00, 0x01, 0x00, 0x00, 0x00, 0x03]) =
    .ok (.syn ⟨0x01, 0x00, 0x00, 0x00000001, 0x0000, 0x0003, []⟩) ∧
  decode (.datagram [0x01, 0x02, 0x00, 0x00, 0x00, 0x00, 0x00, 0x64, 0x00, 0x00, 0x00, 0x67]) =
    .ok (.synAck ⟨0x01, 0x00, 0x00, 0x00000064, 0x0000, 0x0067, []⟩) ∧
  decode (.datagram [0x01, 0x03, 0x00, 0x00, 0x00, 0x00, 0x00, 0x00, 0x00, 0x00, 0x00, 0x04]) =
    .ok (.ack ⟨0x01, 0x00, 0x00, 0x00000000, 0x0000, 0x0004, []⟩) ∧
  decode (.datagram [0x01, 0x10, 0x00, 0x00, 0x00, 0x00, 0x00, 0x01, 0x00, 0x02, 0x00, 0xE5, 0x68, 0x69]) =
    .ok (.msg ⟨0x01, 0x00, 0x00, 0x00000001, 0x0002, 0x00E5, [0x68, 0x69]⟩) ∧
  decode (.datagram [0x01, 0x11, 0x00, 0x00, 0x00, 0x00, 0x00, 0x01, 0x00, 0x00, 0x00, 0x13]) =
    .ok (.msgAck ⟨0x01, 0x00, 0x00, 0x00000001, 0x0000, 0x0013, []⟩) ∧
  decode (.datagram [0x01, 0x20, 0x00, 0x00, 0x01, 0x02, 0x03, 0x04, 0x00, 0x00, 0x00, 0x2B]) =
    .ok (.fin ⟨0x01, 0x00, 0x00, 0x01020304, 0x0000, 0x002B, []⟩) ∧
  decode (.datagram [0x01, 0x21, 0x00, 0x00, 0x01, 0x02, 0x03, 0x04, 0x00, 0x00, 0x00, 0x2C]) =
    .ok (.finAck ⟨0x01, 0x00, 0x00, 0x01020304, 0x0000, 0x002C, []⟩) ∧
  decode (.command 0b00000001) = .ok .encode ∧ decode (.command 0b00000010) = .ok .decode ∧
  decode (.command 0b00000011) = .ok .validate ∧ decode (.command 0b00000100) = .ok .csum ∧
  decode (.command 0b00000101) = .ok .loop ∧ decode (.command 0b00000110) = .ok .reset

/-- The seven frame rows (before R71): DECODE of such a frame gives `RX_TYPE` equal to the code, `TUNK` = 0 and the
frame's fields, and nothing outside the decoded packet changes. That this is the row's meaning is log 5. -/
def Obligations.FramesAreTakenApart : Prop :=
  ∀ row ∈ [(Instr.syn, 0x01#8), (Instr.synAck, 0x02#8), (Instr.ack, 0x03#8), (Instr.msg, 0x10#8),
      (Instr.msgAck, 0x11#8), (Instr.fin, 0x20#8), (Instr.finAck, 0x21#8)],
    ∀ (f : FrameOperands) (s : State), f.wf = true →
      ∃ t, exec (row.1 f) s = .next t ∧
        t.readReg .rxType = row.2 ∧ t.readReg .rxVer = f.version ∧ t.readReg .rxFlags = f.flags ∧
        t.readReg .rxRsvd = f.reserved ∧ t.readReg .rxSeq = f.sequence ∧ t.readReg .rxPlen = f.payloadLength ∧
        t.readReg .rxCksum = f.checksum ∧ t.readReg .rxCalc = 0x0000#16 ∧
        (∀ i, t.readByte .rxp i = f.payload.getD i 0x00#8) ∧
        t.status = { s.status with rxv := true, tunk := false, ok := false, unck := false, err := .none } ∧
        SameExcept (.status :: packetRegs) [.rxp] s t

/-- The seven frame rows (before R71): ENCODE with `TX_TYPE` equal to the code produces such a frame. -/
def Obligations.EncodeProducesTheTypedFrame : Prop :=
  ∀ row ∈ [(Instr.syn, 0x01#8), (Instr.synAck, 0x02#8), (Instr.ack, 0x03#8), (Instr.msg, 0x10#8),
      (Instr.msgAck, 0x11#8), (Instr.fin, 0x20#8), (Instr.finAck, 0x21#8)],
    ∀ s : State, s.readReg .txType = row.2 →
      ∃ t f, exec .encode s = .next t ∧ decode (.datagram t.encodedFrame) = .ok (row.1 f) ∧ f.wf = true ∧
        f.version = s.readReg .version ∧ f.flags = s.readReg .txFlags ∧ f.reserved = s.readReg .txRsvd ∧
        f.sequence = s.readReg .txSeq ∧ f.payloadLength.toNat = min (s.readReg .txLen).toNat 512 ∧
        f.checksum = t.readReg .txCksum ∧
        ∀ i, i < f.payloadLength.toNat → f.payload[i]? = some (s.readByte .txp i)

/-! ### ENCODE -/

/-- R89, R93: ENCODE completes from every state with no error; every byte of `TXF`, the length, the checksum field, the
flags, and its frame. -/
def Obligations.EncodeBuildsTheFrame : Prop :=
  decode (.command 0x01#8) = .ok .encode ∧
  ∀ s : State,
    let n := min (s.readReg .txLen).toNat 512
    ∃ t, exec .encode s = .next t ∧
      (t.readReg .txfLen).toNat = 12 + n ∧
      t.readByte .txf 0 = s.readReg .version ∧ t.readByte .txf 1 = s.readReg .txType ∧
      t.readByte .txf 2 = s.readReg .txFlags ∧ t.readByte .txf 3 = s.readReg .txRsvd ∧
      be32 (t.readByte .txf 4) (t.readByte .txf 5) (t.readByte .txf 6) (t.readByte .txf 7) = s.readReg .txSeq ∧
      (be16 (t.readByte .txf 8) (t.readByte .txf 9)).toNat = n ∧
      be16 (t.readByte .txf 10) (t.readByte .txf 11) = t.readReg .txCksum ∧
      (∀ i, i < n → t.readByte .txf (12 + i) = s.readByte .txp i) ∧
      (∀ i, 12 + n ≤ i → t.readByte .txf i = 0x00#8) ∧
      (s.readReg .ctrl = 0x01#8 →
        (t.readReg .txCksum).toNat =
          ((s.readReg .version).toNat + (s.readReg .txType).toNat + (s.readReg .txFlags).toNat
            + (s.readReg .txRsvd).toNat + total32 (s.readReg .txSeq) + total16 (BitVec.ofNat 16 n)
            + total n (s.readByte .txp)) % 65536) ∧
      (s.readReg .ctrl ≠ 0x01#8 → t.readReg .txCksum = 0x0000#16) ∧
      t.status = { s.status with txv := true, err := .none } ∧
      SameExcept [.txCksum, .txfLen, .status] [.txf] s t

/-- R91: for every offered length the payload is the first `min(TX_LEN, 512)` bytes; a longer offer gives the very frame
of length 512, with no indication, and `TX_LEN` stays. -/
def Obligations.EncodeTruncates : Prop :=
  ∀ (s : State) (l : Half),
    let n := min l.toNat 512
    ∃ t u, exec .encode { s with tx := { s.tx with len := l } } = .next t ∧
      exec .encode { s with tx := { s.tx with len := BitVec.ofNat 16 n } } = .next u ∧
      t.frame = u.frame ∧ t.status = u.status ∧ t.readReg .txLen = l ∧ (t.readReg .txfLen).toNat = 12 + n ∧
      (be16 (t.readByte .txf 8) (t.readByte .txf 9)).toNat = n ∧
      (∀ i, i < n → t.readByte .txf (12 + i) = s.readByte .txp i) ∧
      t.status = { s.status with txv := true, err := .none }

/-- ENCODE keeps its inputs, and issuing it again gives the same state (R95). -/
def Obligations.EncodeAgainChangesNothing : Prop :=
  ∀ s : State, ∃ t, exec .encode s = .next t ∧ exec .encode t = .next t ∧
    t.tx = s.tx ∧ t.cken = s.cken ∧ t.version = s.version

/-- R96: the pure function `Encode`, and that ENCODE puts its value in `TXF`. -/
def Obligations.EncodedFrameIsThePureFunction : Prop :=
  (∀ (v : Byte) (cken : Bool) (typ flags rsvd : Byte) (seq : Word) (l : Half) (p : List Byte),
    let n := min l.toNat 512
    n ≤ p.length →
    let header := fun c : Half => packHeader ⟨v, typ, flags, rsvd, seq, BitVec.ofNat 16 n, c⟩
    let c := if cken then byteSum (header 0x0000#16 ++ p.take n) else 0x0000#16
    let frame := (encodePacket v cken typ flags rsvd seq l p).bytes
    frame = header c ++ p.take n ∧ frame.length = 12 + n) ∧
  ∀ s : State, ∃ t, exec .encode s = .next t ∧
    t.encodedFrame =
      (encodePacket (s.readReg .version) s.cken (s.readReg .txType) (s.readReg .txFlags) (s.readReg .txRsvd)
        (s.readReg .txSeq) (s.readReg .txLen) (s.tx.txp.bytes 512)).bytes

/-! ### DECODE -/

/-- R97: what DECODE does, whether the bytes are enough for the frame or not: every register, every byte of `RXP`, the
flags, and its frame. -/
def Obligations.DecodeUnpacksTheFrame : Prop :=
  decode (.command 0x02#8) = .ok .decode ∧
  ∀ s : State,
    let m := (s.readReg .rxfLen).toNat
    let plen := be16 (s.readByte .rxf 8) (s.readByte .rxf 9)
    (12 ≤ m → 12 + plen.toNat ≤ m →
      ∃ t, exec .decode s = .next t ∧
        t.readReg .rxVer = s.readByte .rxf 0 ∧ t.readReg .rxType = s.readByte .rxf 1 ∧
        t.readReg .rxFlags = s.readByte .rxf 2 ∧ t.readReg .rxRsvd = s.readByte .rxf 3 ∧
        t.readReg .rxSeq =
          be32 (s.readByte .rxf 4) (s.readByte .rxf 5) (s.readByte .rxf 6) (s.readByte .rxf 7) ∧
        t.readReg .rxPlen = plen ∧ t.readReg .rxCksum = be16 (s.readByte .rxf 10) (s.readByte .rxf 11) ∧
        t.readReg .rxCalc = 0x0000#16 ∧
        (∀ i, i < plen.toNat → t.readByte .rxp i = s.readByte .rxf (12 + i)) ∧
        (∀ i, plen.toNat ≤ i → t.readByte .rxp i = 0x00#8) ∧
        (∃ tunk, t.status =
          { s.status with rxv := true, tunk := tunk, ok := false, unck := false, err := .none } ∧
          (tunk = false ↔ s.readByte .rxf 1 ∈ [0x01#8, 0x02#8, 0x03#8, 0x10#8, 0x11#8, 0x20#8, 0x21#8])) ∧
        SameExcept (.status :: packetRegs) [.rxp] s t) ∧
    ((m < 12 ∨ m < 12 + plen.toNat) →
      ∃ t, exec .decode s = .next t ∧
        (∀ r ∈ packetRegs, t.readReg r = 0#r.width) ∧ (∀ i, t.readByte .rxp i = 0x00#8) ∧
        t.status =
          { s.status with rxv := false, tunk := false, ok := false, unck := false, err := .malformedPacket } ∧
        SameExcept (.status :: packetRegs) [.rxp] s t)

/-- R98, R99: DECODE reports `MalformedPacket` exactly for a short header or a short payload, the comparison being on
unbounded numbers; and for a short header no byte of `RXF` matters. -/
def Obligations.MalformedHasTwoCauses : Prop :=
  ∀ s : State,
    let m := (s.readReg .rxfLen).toNat
    let plen := be16 (s.readByte .rxf 8) (s.readByte .rxf 9)
    ∃ t, exec .decode s = .next t ∧
      (t.status.err = .malformedPacket ↔ m < 12 ∨ (12 ≤ m ∧ m < 12 + plen.toNat)) ∧
      (m < 12 → ∀ rxf : Memory, ∃ u, exec .decode { s with gram := { s.gram with rxf := rxf } } = .next u ∧
        u.rx = t.rx ∧ u.status = t.status)

/-- R100: with a receive length of at most 524 a `payload_length` above 512 is `MalformedPacket`, and after every DECODE
`RX_PLEN` is at most 512. -/
def Obligations.OverlongPayloadIsMalformed : Prop :=
  ∀ s : State, (s.readReg .rxfLen).toNat ≤ 524 →
    ∃ t, exec .decode s = .next t ∧ (t.readReg .rxPlen).toNat ≤ 512 ∧
      (512 < (be16 (s.readByte .rxf 8) (s.readByte .rxf 9)).toNat → t.status.err = .malformedPacket)

/-- R101: bytes after the frame are ignored: two receive buffers that agree on the frame, with lengths that cover it,
decode and validate alike. -/
def Obligations.TrailingBytesAreIgnored : Prop :=
  ∀ (s : State) (g : RxGram),
    let k := 12 + (be16 (s.readByte .rxf 8) (s.readByte .rxf 9)).toNat
    k ≤ s.gram.len.toNat → k ≤ g.len.toNat → (∀ i, i < k → g.rxf.read i = s.readByte .rxf i) →
    ∃ t u t' u', exec .decode s = .next t ∧ exec .decode { s with gram := g } = .next u ∧
      exec .validate t = .next t' ∧ exec .validate u = .next u' ∧
      t.status.err = .none ∧ u.rx = t.rx ∧ u.status = t.status ∧ u'.rx = t'.rx ∧ u'.status = t'.status

/-- R103: the pure function `Decode`; that of an Encode it gives back the packet, truncated to 512 bytes; and that a
decode without trailing bytes packs back to the same bytes. -/
def Obligations.DecodeOfEncodeIsThePacket : Prop :=
  (∀ bs : List Byte,
    let h := unpackHeader bs
    let plen := h.payloadLength.toNat
    (bs.length < 12 ∨ bs.length < 12 + plen → ∃ e, decodePacket bs = .error e) ∧
    (12 + plen ≤ bs.length → decodePacket bs = .ok ⟨h, (bs.drop 12).take plen⟩)) ∧
  (∀ (v : Byte) (cken : Bool) (typ flags rsvd : Byte) (seq : Word) (l : Half) (p : List Byte),
    min l.toNat 512 ≤ p.length →
    ∃ q, decodePacket (encodePacket v cken typ flags rsvd seq l p).bytes = .ok q ∧
      q.header.version = v ∧ q.header.typ = typ ∧ q.header.flags = flags ∧ q.header.reserved = rsvd ∧
      q.header.sequence = seq ∧ q.header.payloadLength.toNat = min l.toNat 512 ∧
      q.payload = p.take (min l.toNat 512) ∧
      q.header.checksum = (encodePacket v cken typ flags rsvd seq l p).header.checksum) ∧
  ∀ (bs : List Byte) (q : Packet), decodePacket bs = .ok q → bs.length = 12 + q.header.payloadLength.toNat →
    q.bytes = bs

/-! ### The checksum -/

/-- R105, R106: `ByteSum` is the sum modulo 65536; a 16-bit accumulator over the bytes in any order gives it, and so do
the low 16 bits of one of any greater width; 18 bits are enough before reduction. -/
def Obligations.ByteSumForms : Prop :=
  byteSum [] = 0x0000#16 ∧
  ∀ bs : List Byte,
    (byteSum bs).toNat = (bs.map BitVec.toNat).sum % 65536 ∧
    (∀ cs : List Byte, cs.Perm bs → cs.foldl (fun (a : BitVec 16) b => a + b.setWidth 16) 0#16 = byteSum bs) ∧
    (∀ w : Nat, 16 ≤ w →
      (bs.foldl (fun (a : BitVec w) b => a + b.setWidth w) 0#w).setWidth 16 = byteSum bs) ∧
    (bs.length ≤ 524 → (bs.map BitVec.toNat).sum < 2 ^ 18)

/-- R107: additive, order-free, blind to zero bytes and to compensating changes, and never blind to one changed byte. -/
def Obligations.ByteSumLaws : Prop :=
  (∀ a b : List Byte, (byteSum (a ++ b)).toNat = ((byteSum a).toNat + (byteSum b).toNat) % 65536) ∧
  (∀ a b : List Byte, a.Perm b → byteSum a = byteSum b) ∧
  (∀ a b : List Byte, byteSum (a ++ 0x00#8 :: b) = byteSum (a ++ b)) ∧
  (∀ (a b : List Byte) (x y : Byte), x ≠ y → byteSum (a ++ x :: b) ≠ byteSum (a ++ y :: b)) ∧
  (∀ (a b c : List Byte) (x y x' y' : Byte), x.toNat + y.toNat = x'.toNat + y'.toNat →
    byteSum (a ++ x :: b ++ y :: c) = byteSum (a ++ x' :: b ++ y' :: c))

/-- R108: the two forms of `FrameSum`; ENCODE writes the one of the frame it builds, and VALIDATE recomputes it over the
decoded packet. -/
def Obligations.FrameSumForms : Prop :=
  (∀ f : List Byte, 12 ≤ f.length →
    frameSum f = byteSum (f.take 10 ++ [0x00#8, 0x00#8] ++ f.drop 12) ∧
    (frameSum f).toNat =
        ((byteSum (f.take 10)).toNat + (byteSum (f.drop 12)).toNat) % 65536 ∧
    frameSum f = byteSum f - (byteAt f 10).setWidth 16 - (byteAt f 11).setWidth 16) ∧
  (∀ s : State, s.readReg .ctrl = 0x01#8 →
    ∃ t, exec .encode s = .next t ∧ t.readReg .txCksum = frameSum t.encodedFrame) ∧
  ∀ s : State, s.status.rxv = true →
    ∃ t, exec .validate s = .next t ∧ t.readReg .rxCalc = frameSum s.heldPacket.bytes

/-- R109: CSUM sums the received bytes, nothing zeroed, and writes nothing else but `ERR`. -/
def Obligations.CsumSumsTheReceivedBytes : Prop :=
  decode (.command 0x04#8) = .ok .csum ∧
  ∀ s : State, ∃ t, exec .csum s = .next t ∧
    (t.readReg .sum).toNat = total (s.readReg .rxfLen).toNat (s.readByte .rxf) % 65536 ∧
    t.status = { s.status with err := .none } ∧ SameExcept [.sum, .status] [] s t

/-- R110: the wrap-around examples, and the value for every number of bytes 0xFF. -/
def Obligations.CsumWraps : Prop :=
  ∀ s : State, (∀ i, i < (s.readReg .rxfLen).toNat → s.readByte .rxf i = 0xFF#8) →
    ∃ t, exec .csum s = .next t ∧
      (t.readReg .sum).toNat = (s.readReg .rxfLen).toNat * 255 % 65536 ∧
      (s.readReg .rxfLen = 257#10 → t.readReg .sum = 0xFFFF#16) ∧
      (s.readReg .rxfLen = 258#10 → t.readReg .sum = 0x00FE#16) ∧
      (s.readReg .rxfLen = 524#10 → t.readReg .sum = 0x09F4#16)

/-! ### VALIDATE -/

/-- R114, R116 to R120: without a packet VALIDATE reports `NotReady` and changes nothing else; with one, `RX_CALC` gets
the sum over the header fields and the payload with the checksum field taken as zero, and the flags the verdict, version
before checksum; and its frame. -/
def Obligations.ValidateJudgesThePacket : Prop :=
  decode (.command 0x03#8) = .ok .validate ∧
  ∀ s : State,
    (s.status.rxv = false →
      ∃ t, exec .validate s = .next t ∧
        t.status = { s.status with ok := false, unck := false, err := .notReady } ∧ SameExcept [.status] [] s t) ∧
    (s.status.rxv = true →
      let sum :=
        ((s.readReg .rxVer).toNat + (s.readReg .rxType).toNat + (s.readReg .rxFlags).toNat
          + (s.readReg .rxRsvd).toNat + total32 (s.readReg .rxSeq) + total16 (s.readReg .rxPlen)
          + total (s.readReg .rxPlen).toNat (s.readByte .rxp)) % 65536
      ∃ t, exec .validate s = .next t ∧ (t.readReg .rxCalc).toNat = sum ∧
        (s.readReg .rxVer ≠ s.readReg .version →
          t.status = { s.status with ok := false, unck := false, err := .versionMismatch }) ∧
        (s.readReg .rxVer = s.readReg .version → s.readReg .rxCksum = 0x0000#16 →
          t.status = { s.status with ok := true, unck := true, err := .none }) ∧
        (s.readReg .rxVer = s.readReg .version → s.readReg .rxCksum ≠ 0x0000#16 →
          (s.readReg .rxCksum).toNat ≠ sum →
          t.status = { s.status with ok := false, unck := false, err := .checksumMismatch }) ∧
        (s.readReg .rxVer = s.readReg .version → s.readReg .rxCksum ≠ 0x0000#16 →
          (s.readReg .rxCksum).toNat = sum →
          t.status = { s.status with ok := true, unck := false, err := .none }) ∧
        SameExcept [.rxCalc, .status] [] s t)

/-- R115: the sum VALIDATE writes is the `FrameSum` of the frame as it stood in `RXF` at the DECODE, whatever is done to
`RXF` and `RXF_LEN` in between. -/
def Obligations.ValidateSumsTheFrameDecoded : Prop :=
  ∀ (s : State) (g : RxGram),
    let plen := be16 (s.readByte .rxf 8) (s.readByte .rxf 9)
    12 + plen.toNat ≤ s.gram.len.toNat →
    ∃ t u, exec .decode s = .next t ∧ exec .validate { t with gram := g } = .next u ∧
      u.readReg .rxCalc = frameSum (s.gram.rxf.bytes (12 + plen.toNat))

/-- R121: VALIDATE keeps the decoded packet, whatever its verdict, and issuing it again gives the same result. -/
def Obligations.ValidateAgainChangesNothing : Prop :=
  ∀ s : State, ∃ t, exec .validate s = .next t ∧ exec .validate t = .next t ∧
    (∀ r ∈ [Reg.rxVer, .rxType, .rxFlags, .rxRsvd, .rxSeq, .rxPlen, .rxCksum], t.readReg r = s.readReg r) ∧
    (∀ i, t.readByte .rxp i = s.readByte .rxp i) ∧ t.status.rxv = s.status.rxv

/-- R122: the pure function `Validate`, and what it says of every frame an encoder makes: accepted by a receiver of the
same version, checked exactly when `CKEN` is 1 and the sum is not zero, and a version mismatch for every other
receiver. -/
def Obligations.PolicyOnEncodedFrames : Prop :=
  (∀ (v : Byte) (p : Packet),
    let h := p.header
    let sum := byteSum (packHeader ⟨h.version, h.typ, h.flags, h.reserved, h.sequence, h.payloadLength, 0x0000#16⟩
      ++ p.payload)
    (h.version ≠ v → validatePacket v p = .versionMismatch) ∧
    (h.version = v → h.checksum = 0x0000#16 → validatePacket v p = .acceptUnchecked) ∧
    (h.version = v → h.checksum ≠ 0x0000#16 → h.checksum = sum → validatePacket v p = .acceptChecked) ∧
    (h.version = v → h.checksum ≠ 0x0000#16 → h.checksum ≠ sum → validatePacket v p = .checksumMismatch)) ∧
  ∀ (v w : Byte) (cken : Bool) (typ flags rsvd : Byte) (seq : Word) (l : Half) (p : List Byte),
    min l.toNat 512 ≤ p.length →
    let e := encodePacket v cken typ flags rsvd seq l p
    ∃ q, decodePacket e.bytes = .ok q ∧
      validatePacket v q =
        (if cken = true ∧ frameSum e.bytes ≠ 0x0000#16 then Verdict.acceptChecked else Verdict.acceptUnchecked) ∧
      (w ≠ v → validatePacket w q = .versionMismatch)

/-- One corrupted byte, outside the length field, of a frame that was accepted with its checksum compared is never
accepted with the checksum compared (R113): it is rejected, or the corruption has made the checksum field zero. -/
def Obligations.OneCorruptedByteIsDetected : Prop :=
  ∀ (v : Byte) (bs : List Byte) (q : Packet) (k : Nat) (x : Byte),
    decodePacket bs = .ok q → validatePacket v q = .acceptChecked →
    k < 12 + q.header.payloadLength.toNat → k ≠ 8 → k ≠ 9 → byteAt bs k ≠ x →
    ∃ q', decodePacket (bs.set k x) = .ok q' ∧
      (k = 0 → validatePacket v q' = .versionMismatch) ∧
      (k ≠ 0 → q'.header.checksum ≠ 0x0000#16 → validatePacket v q' = .checksumMismatch) ∧
      (q'.header.checksum = 0x0000#16 → k = 10 ∨ k = 11)

/-! ### LOOP and the round trip -/

/-- R123, R124: LOOP copies the encoded frame to the receive buffer, keeps the bytes beyond it, and writes nothing else;
before any ENCODE it reports `NotReady` and changes nothing else. -/
def Obligations.LoopCopiesTheFrame : Prop :=
  decode (.command 0x05#8) = .ok .loop ∧
  ∀ s : State,
    (s.status.txv = true →
      ∃ t, exec .loop s = .next t ∧
        (∀ i, i < (s.readReg .txfLen).toNat → t.readByte .rxf i = s.readByte .txf i) ∧
        (∀ i, (s.readReg .txfLen).toNat ≤ i → t.readByte .rxf i = s.readByte .rxf i) ∧
        t.readReg .rxfLen = s.readReg .txfLen ∧ t.status = { s.status with err := .none } ∧
        SameExcept [.rxfLen, .status] [.rxf] s t) ∧
    (s.status.txv = false →
      ∃ t, exec .loop s = .next t ∧ t.status = { s.status with err := .notReady } ∧ SameExcept [.status] [] s t)

/-- R125: ENCODE, LOOP, DECODE, VALIDATE, from any state, give back the packet, accepted. -/
def Obligations.RoundTripOnTheHardware : Prop :=
  ∀ s : State, ∃ s₁ s₂ s₃ t,
    exec .encode s = .next s₁ ∧ exec .loop s₁ = .next s₂ ∧ exec .decode s₂ = .next s₃ ∧ exec .validate s₃ = .next t ∧
    t.status.err = .none ∧ t.status.rxv = true ∧ t.status.ok = true ∧
    t.readReg .rxVer = s.readReg .version ∧ t.readReg .rxType = s.readReg .txType ∧
    t.readReg .rxFlags = s.readReg .txFlags ∧ t.readReg .rxRsvd = s.readReg .txRsvd ∧
    t.readReg .rxSeq = s.readReg .txSeq ∧ (t.readReg .rxPlen).toNat = min (s.readReg .txLen).toNat 512 ∧
    t.readReg .rxCksum = t.readReg .txCksum ∧
    (∀ i, i < (t.readReg .rxPlen).toNat → t.readByte .rxp i = s.readByte .txp i) ∧
    (∀ i, (t.readReg .rxPlen).toNat ≤ i → t.readByte .rxp i = 0x00#8) ∧
    (t.status.unck = true ↔ t.readReg .txCksum = 0x0000#16) ∧
    (t.status.unck = false → t.readReg .rxCalc = t.readReg .rxCksum)

/-! ### Host accesses -/

/-- The bits of `STATUS` as the host reads it, and the codes of `ERR` (R19, R25). -/
def Obligations.StatusWordLayout : Prop :=
  ∀ s : State, let w := s.readReg .status
    w.getLsbD 0 = s.status.txv ∧ w.getLsbD 1 = s.status.rxv ∧ w.getLsbD 2 = s.status.ok ∧
    w.getLsbD 3 = s.status.unck ∧ w.getLsbD 4 = s.status.tunk ∧
    w.extractLsb' 5 3 = 0#3 ∧ w.extractLsb' 11 5 = 0#5 ∧
    (w.extractLsb' 8 3).toNat =
      (match s.status.err with
        | .none => 0 | .malformedPacket => 1 | .versionMismatch => 2 | .checksumMismatch => 3
        | .notReady => 4 | .illegalCommand => 5)

/-- `RD` returns the register's value and `RDB` a byte, and the block does not change (R47). That the value goes to the
list `returned` is the model's (log 3). -/
def Obligations.ReadsReturnTheValue : Prop :=
  ∀ s : State,
    (∀ r, ∃ t, perform (.rd r) s = .next t ∧ t.returned = .reg r (s.readReg r) :: s.returned ∧
      t.pending = s.pending ∧ SameExcept [] [] s t) ∧
    (∀ b i, i < b.size →
      ∃ t, perform (.rdb b i) s = .next t ∧ t.returned = .byte b i (s.readByte b i) :: s.returned ∧
        t.pending = s.pending ∧ SameExcept [] [] s t)

/-- R48: a write to a read/write register stores the value and has no other effect; `CTRL` keeps bit 0 and `RXF_LEN`
saturates at 524. -/
def Obligations.RegisterWritesStore : Prop :=
  ∀ s : State,
    (∀ r ∈ [Reg.txType, .txFlags, .txRsvd, .txSeq, .txLen], ∀ v : BitVec r.width,
      ∃ t, perform (.wr r v) s = .next t ∧ t.readReg r = v ∧ SameExcept [r] [] s t) ∧
    (∀ v : Byte, ∃ t, perform (.wr .ctrl v) s = .next t ∧ t.readReg .ctrl = v &&& 0x01#8 ∧
      SameExcept [.ctrl] [] s t) ∧
    (∀ v : Len, ∃ t, perform (.wr .rxfLen v) s = .next t ∧ (t.readReg .rxfLen).toNat = min v.toNat 524 ∧
      SameExcept [.rxfLen] [] s t)

/-- R49: writes to read-only registers and buffers are ignored; `CMD` reads 0, and reading it has no effect. -/
def Obligations.ReadOnlyWritesAreIgnored : Prop :=
  ∀ s : State,
    (∀ r ∈ [Reg.version, .status, .txCksum, .txfLen, .rxVer, .rxType, .rxFlags, .rxRsvd, .rxSeq, .rxPlen, .rxCksum,
        .rxCalc, .sum], ∀ v : BitVec r.width, perform (.wr r v) s = .next s) ∧
    (∀ b ∈ [Buf.txf, .rxp], ∀ (i : Nat) (v : Byte), i < b.size → perform (.wrb b i v) s = .next s) ∧
    s.readReg .cmd = 0x00#8 ∧ ∃ t, perform (.rd .cmd) s = .next t ∧ SameExcept [] [] s t

/-- `WRB` to `TXP` or `RXF` stores the byte and changes no other byte and no register (R47). -/
def Obligations.BufferWritesStoreOneByte : Prop :=
  ∀ (s : State) (b : Buf) (i : Nat) (v : Byte), b.writable = true → i < b.size →
    ∃ t, perform (.wrb b i v) s = .next t ∧ t.readByte b i = v ∧ (∀ j, j ≠ i → t.readByte b j = s.readByte b j) ∧
      SameExcept [] [b] s t

/-- An access to a register number above 20, a buffer id above 3, or an index outside the buffer is refused (R50). That
such an access is an event of its own (log 12), and that its refusal says which location is missing (log 13), are the
model's choices. -/
def Obligations.MissingLocationsAreRefused : Prop :=
  ∀ (s : State) (n i : Nat) (x : Nat) (v : Byte),
    (20 < n → perform (.rdNumber n) s = .refused (.noSuchRegister n) ∧
      perform (.wrNumber n x) s = .refused (.noSuchRegister n)) ∧
    (3 < n → perform (.rdbNumber n i) s = .refused (.noSuchBuffer n) ∧
      perform (.wrbNumber n i v) s = .refused (.noSuchBuffer n)) ∧
    (∀ b ∈ [(0, Buf.txp, 512), (1, Buf.txf, 524), (2, Buf.rxf, 524), (3, Buf.rxp, 512)], b.2.2 ≤ i →
      perform (.rdbNumber b.1 i) s = .refused (.noSuchIndex b.2.1 i) ∧
      perform (.wrbNumber b.1 i v) s = .refused (.noSuchIndex b.2.1 i))

/-- No host access changes `STATUS`, but a write to `CMD` (R47). -/
def Obligations.OnlyCommandsChangeStatus : Prop :=
  ∀ (e : Event) (s t : State), perform e s = .next t → e ≠ .hardReset → (∀ c, e ≠ .wr .cmd c) →
    t.status = s.status ∧ t.readReg .status = s.readReg .status

/-- Writes are idempotent for every location but `CMD` (R55). -/
def Obligations.WritesAreIdempotent : Prop :=
  ∀ s : State,
    (∀ (r : Reg) (v : BitVec r.width), r ≠ .cmd →
      ∃ t, perform (.wr r v) s = .next t ∧ perform (.wr r v) t = .next t) ∧
    (∀ (b : Buf) (i : Nat) (v : Byte), i < b.size →
      ∃ t, perform (.wrb b i v) s = .next t ∧ perform (.wrb b i v) t = .next t)
end

