-- ==== Sys2Proof/Laws/Encoding.lean ====
section
/-! SUPPORT. The bytes of a number and the number of bytes (R10, R66, R67), and when DECODE's pure function succeeds. -/

namespace Sys2Proof

@[simp] theorem be16_byteOf (v : Half) : be16 (byteOf v 1) (byteOf v 0) = v := by
  apply BitVec.eq_of_getLsbD_eq
  intro i hi
  simp only [be16, byteOf, BitVec.getLsbD_append, BitVec.getLsbD_extractLsb']
  grind

@[simp] theorem be32_byteOf (v : Word) : be32 (byteOf v 3) (byteOf v 2) (byteOf v 1) (byteOf v 0) = v := by
  apply BitVec.eq_of_getLsbD_eq
  intro i hi
  simp only [be32, byteOf, BitVec.getLsbD_append, BitVec.getLsbD_extractLsb']
  grind

theorem byteOf_be16_high (hi lo : Byte) : byteOf (be16 hi lo) 1 = hi := by
  apply BitVec.eq_of_getLsbD_eq
  intro i hi
  simp only [be16, byteOf, BitVec.getLsbD_append, BitVec.getLsbD_extractLsb']
  grind

theorem byteOf_be16_low (hi lo : Byte) : byteOf (be16 hi lo) 0 = lo := by
  apply BitVec.eq_of_getLsbD_eq
  intro i hi
  simp only [be16, byteOf, BitVec.getLsbD_append, BitVec.getLsbD_extractLsb']
  grind

theorem byteOf_be32 (a b c d : Byte) :
    byteOf (be32 a b c d) 3 = a ∧ byteOf (be32 a b c d) 2 = b ∧ byteOf (be32 a b c d) 1 = c
      ∧ byteOf (be32 a b c d) 0 = d := by
  refine ⟨?_, ?_, ?_, ?_⟩ <;>
  · apply BitVec.eq_of_getLsbD_eq
    intro i hi
    simp only [be32, byteOf, BitVec.getLsbD_append, BitVec.getLsbD_extractLsb']
    grind

theorem be16_toNat (hi lo : Byte) : (be16 hi lo).toNat = hi.toNat * 256 + lo.toNat := by
  simp only [be16, BitVec.toNat_append]
  rw [← Nat.shiftLeft_add_eq_or_of_lt lo.isLt]
  simp [Nat.shiftLeft_eq]

theorem be32_toNat (a b c d : Byte) :
    (be32 a b c d).toNat = a.toNat * 2 ^ 24 + b.toNat * 2 ^ 16 + c.toNat * 2 ^ 8 + d.toNat := by
  simp only [be32, BitVec.toNat_append]
  rw [← Nat.shiftLeft_add_eq_or_of_lt b.isLt, ← Nat.shiftLeft_add_eq_or_of_lt c.isLt,
    ← Nat.shiftLeft_add_eq_or_of_lt d.isLt]
  simp [Nat.shiftLeft_eq]
  ring

theorem byteOf_toNat {w : Nat} (v : BitVec w) (k : Nat) : (byteOf v k).toNat = v.toNat / 2 ^ (8 * k) % 256 := by
  simp [byteOf, Nat.shiftRight_eq_div_pow]

@[simp] theorem packHeader_length (h : Header) : (packHeader h).length = 12 := rfl

@[simp] theorem Packet.bytes_length (p : Packet) : p.bytes.length = 12 + p.payload.length := by
  simp [Packet.bytes]

/-- Everything `Decode` can answer: success needs 12 bytes and then `payload_length` more (R98, R99). -/
theorem decodePacket_eq_ok {bs : List Byte} {p : Packet} :
    decodePacket bs = .ok p ↔
      12 + (unpackHeader bs).payloadLength.toNat ≤ bs.length ∧
        p = ⟨unpackHeader bs, (bs.drop 12).take (unpackHeader bs).payloadLength.toNat⟩ := by
  by_cases h1 : bs.length < 12
  · simp [decodePacket, h1]; omega
  · by_cases h2 : bs.length < 12 + (unpackHeader bs).payloadLength.toNat
    · simp [decodePacket, h1, h2]
    · simp [decodePacket, h1, h2, eq_comm]; omega

/-- It fails exactly otherwise. -/
theorem decodePacket_eq_error {bs : List Byte} :
    (∃ e, decodePacket bs = .error e) ↔ bs.length < 12 + (unpackHeader bs).payloadLength.toNat := by
  by_cases h1 : bs.length < 12
  · simp [decodePacket, h1]; omega
  · by_cases h2 : bs.length < 12 + (unpackHeader bs).payloadLength.toNat
    · simp [decodePacket, h1, h2]
    · simp [decodePacket, h1, h2]

/-- The payload that `Decode` returns has `payload_length` bytes. -/
theorem decodePacket_payload_length {bs : List Byte} {p : Packet} (h : decodePacket bs = .ok p) :
    p.payload.length = p.header.payloadLength.toNat := by
  obtain ⟨hl, rfl⟩ := decodePacket_eq_ok.1 h
  simp only [List.length_take, List.length_drop]
  omega

/-- Only the first 12 bytes are unpacked. -/
theorem unpackHeader_congr {bs cs : List Byte} (h : ∀ i, i < 12 → byteAt bs i = byteAt cs i) :
    unpackHeader bs = unpackHeader cs := by
  simp [unpackHeader, h]

theorem byteAt_append_left {a b : List Byte} {i : Nat} (h : i < a.length) : byteAt (a ++ b) i = byteAt a i := by
  simp [byteAt, List.getD, List.getElem?_append_left h]

theorem byteAt_take {bs : List Byte} {k i : Nat} (h : i < k) : byteAt (bs.take k) i = byteAt bs i := by
  simp [byteAt, List.getD, h]

end Sys2Proof
end

