-- ==== Sys2Proof/Laws/Checksum.lean ====
section
/-! SUPPORT. `ByteSum` and the sum of a packet as numbers (R92, R105, R114). -/

namespace Sys2Proof.Machine

theorem byteSum_toNat (bs : List Byte) : (byteSum bs).toNat = (bs.map BitVec.toNat).sum % 65536 := by
  simp [byteSum]

theorem byteSum_eq_iff {a b : List Byte} :
    byteSum a = byteSum b ↔ (a.map BitVec.toNat).sum % 65536 = (b.map BitVec.toNat).sum % 65536 := by
  rw [← BitVec.toNat_inj, byteSum_toNat, byteSum_toNat]

theorem sum_bytes (m : Memory) (n : Nat) : ((m.bytes n).map BitVec.toNat).sum = total n m.read := by
  simp only [Memory.bytes, total, List.map_map]
  rfl

/-- The sum of a packet, field by field: the checksum field does not enter it. -/
theorem checksumOf_toNat (p : Packet) :
    (checksumOf p).toNat =
      (p.header.version.toNat + p.header.typ.toNat + p.header.flags.toNat + p.header.reserved.toNat
        + total32 p.header.sequence + total16 p.header.payloadLength + (p.payload.map BitVec.toNat).sum) % 65536 := by
  have h1 := p.header.sequence.isLt
  have h2 := p.header.payloadLength.isLt
  simp only [checksumOf, byteSum_toNat, List.map_append, List.sum_append, packHeader, List.map_cons, List.map_nil,
    List.sum_cons, List.sum_nil, byteOf_toNat, total32, total16, show (0#16).toNat = 0 from rfl, Nat.zero_div,
    Nat.zero_mod]
  congr 1
  have : p.header.sequence.toNat / 2 ^ 24 < 256 := by omega
  have : p.header.payloadLength.toNat / 2 ^ 8 < 256 := by omega
  norm_num at *
  omega

end Sys2Proof.Machine
end

