-- ==== Sys2Proof/Laws/Memory.lean ====
section
/-! SUPPORT. The laws of a buffer: what a read gives after a write, that every operation keeps the canonical form and
the buffer's bound, and that canonical buffers with equal bytes are equal. -/

namespace Sys2Proof.Machine

/-! ### Reads after writes -/

@[simp] theorem Memory.read_nil (i : Nat) : Memory.read [] i = 0#8 := rfl

theorem Memory.read_cons (a : Nat) (b : Byte) (m : Memory) (i : Nat) :
    Memory.read ((a, b) :: m) i = if a = i then b else Memory.read m i := rfl

theorem Memory.read_insert (m : Memory) (i : Nat) (v : Byte) (j : Nat) :
    (m.insert i v).read j = if j = i then v else m.read j := by
  induction m with
  | nil => simp [Memory.insert, Memory.read_cons, eq_comm]
  | cons c m ih =>
    obtain ⟨a, b⟩ := c
    unfold Memory.insert
    split
    · simp only [Memory.read_cons, eq_comm]
    · split
      · subst_vars; simp only [Memory.read_cons]; grind
      · simp only [Memory.read_cons, ih]; grind

theorem Memory.read_erase (m : Memory) (i j : Nat) : (m.erase i).read j = if j = i then 0#8 else m.read j := by
  induction m with
  | nil => simp [Memory.erase]
  | cons c m ih =>
    obtain ⟨a, b⟩ := c
    simp only [Memory.erase, List.filter_cons] at ih ⊢
    split <;> simp_all [Memory.read_cons] <;> grind

/-- A read after a write: the byte written there, and every other byte as before. -/
theorem Memory.read_write (m : Memory) (i : Nat) (v : Byte) (j : Nat) :
    (m.write i v).read j = if j = i then v else m.read j := by
  unfold Memory.write
  split
  · next h => simp only [Memory.read_erase, h, Config.unlistedByte]
  · exact Memory.read_insert m i v j

@[simp] theorem Memory.read_write_same (m : Memory) (i : Nat) (v : Byte) : (m.write i v).read i = v := by
  simp [Memory.read_write]

theorem Memory.read_write_other (m : Memory) (v : Byte) {i j : Nat} (h : j ≠ i) :
    (m.write i v).read j = m.read j := by
  simp [Memory.read_write, h]

theorem Memory.read_writeBytes (m : Memory) (a : Nat) (bs : List Byte) (i : Nat) :
    (m.writeBytes a bs).read i = if a ≤ i ∧ i < a + bs.length then bs.getD (i - a) 0#8 else m.read i := by
  induction bs generalizing a with
  | nil => simp [Memory.writeBytes]
  | cons b bs ih =>
    simp only [Memory.writeBytes, Memory.read_write, ih, List.length_cons]
    by_cases h : i = a
    · subst h; simp
    · by_cases h' : a + 1 ≤ i ∧ i < a + 1 + bs.length
      · obtain ⟨k, hk⟩ : ∃ k, i - a = k + 1 := ⟨i - a - 1, by omega⟩
        have : i - (a + 1) = k := by omega
        simp [h, h', hk, this, show a ≤ i by omega, show i < a + (bs.length + 1) by omega]
      · rw [if_neg h, if_neg h', if_neg (by omega)]

/-- Writing from index 0: the bytes written, and beyond them the bytes as before. -/
theorem Memory.read_writeBytes_zero (m : Memory) (bs : List Byte) (i : Nat) :
    (m.writeBytes 0 bs).read i = if i < bs.length then bs.getD i 0#8 else m.read i := by
  simp [Memory.read_writeBytes]

/-- A buffer made of bytes reads as those bytes, and 0x00 beyond them. -/
@[simp] theorem Memory.read_ofBytes (bs : List Byte) (i : Nat) : (Memory.ofBytes bs).read i = bs.getD i 0#8 := by
  unfold Memory.ofBytes
  rw [Memory.read_writeBytes_zero]
  split
  · rfl
  · simp [List.getD, List.getElem?_eq_none (show bs.length ≤ i by omega)]

/-! ### Writing twice -/

theorem Memory.insert_insert (m : Memory) (i : Nat) (v : Byte) : (m.insert i v).insert i v = m.insert i v := by
  induction m with
  | nil => simp [Memory.insert]
  | cons c m ih =>
    obtain ⟨a, b⟩ := c
    by_cases h : i < a
    · simp [Memory.insert, h]
    · by_cases h' : i = a <;> simp [Memory.insert, h, h', ih]

/-- Writing the same byte again changes nothing. -/
theorem Memory.write_write (m : Memory) (i : Nat) (v : Byte) : (m.write i v).write i v = m.write i v := by
  unfold Memory.write
  split
  · simp [Memory.erase, List.filter_filter]
  · exact Memory.insert_insert m i v

/-! ### The bytes of a buffer -/

@[simp] theorem Memory.bytes_length (m : Memory) (n : Nat) : (m.bytes n).length = n := by simp [Memory.bytes]

theorem Memory.bytes_getElem? (m : Memory) (n i : Nat) :
    (m.bytes n)[i]? = if i < n then some (m.read i) else none := by
  unfold Memory.bytes
  by_cases h : i < n <;> simp [h]

@[simp] theorem Memory.bytes_getElem (m : Memory) (n i : Nat) (h : i < (m.bytes n).length) :
    (m.bytes n)[i] = m.read i := by simp [Memory.bytes]

theorem byteAt_bytes (m : Memory) {n i : Nat} (h : i < n) : byteAt (m.bytes n) i = m.read i := by
  rw [byteAt, List.getD, Memory.bytes_getElem?, if_pos h, Option.getD_some]

theorem Memory.bytes_congr {m m' : Memory} {n : Nat} (h : ∀ i, i < n → m.read i = m'.read i) :
    m.bytes n = m'.bytes n := by
  simp only [Memory.bytes]
  exact List.map_congr_left fun i hi => h i (List.mem_range.1 hi)

theorem Memory.bytes_take (m : Memory) {n k : Nat} (h : k ≤ n) : (m.bytes n).take k = m.bytes k := by
  apply List.ext_getElem?
  intro i
  simp only [List.getElem?_take, Memory.bytes_getElem?]
  grind

@[simp] theorem Memory.bytes_ofBytes (bs : List Byte) : (Memory.ofBytes bs).bytes bs.length = bs := by
  apply List.ext_getElem?
  intro i
  rw [Memory.bytes_getElem?]
  by_cases h : i < bs.length
  · simp [h]
  · simp [h]

/-! ### The canonical form -/

theorem Memory.mem_insert {m : Memory} {i : Nat} {v : Byte} {c : Host.Cell} (h : c ∈ m.insert i v) :
    c = (i, v) ∨ c ∈ m := by
  induction m with
  | nil => simpa [Memory.insert] using h
  | cons d m ih =>
    obtain ⟨a, b⟩ := d
    unfold Memory.insert at h
    split at h
    · simpa using h
    · split at h <;> simp at h ⊢ <;> grind

theorem Memory.wf_insert {m : Memory} (h : m.wf) (i : Nat) {v : Byte} (hv : v ≠ Config.unlistedByte) :
    (m.insert i v).wf := by
  refine ⟨?_, fun c hc => (Memory.mem_insert hc).elim (fun e => e ▸ hv) (h.2 c)⟩
  obtain ⟨h, -⟩ := h
  induction m with
  | nil => simp [Memory.insert]
  | cons d m ih =>
    obtain ⟨a, b⟩ := d
    rw [List.pairwise_cons] at h
    unfold Memory.insert
    split
    · next hlt =>
      simp only [List.pairwise_cons, List.mem_cons]
      exact ⟨fun c hc => hc.elim (fun e => e ▸ hlt) fun hc => Nat.lt_trans hlt (h.1 c hc), h⟩
    · split
      · next _ e => subst e; exact List.pairwise_cons.2 h
      · refine List.pairwise_cons.2 ⟨fun c hc => ?_, ih h.2⟩
        rcases Memory.mem_insert hc with rfl | hc
        · simp only; omega
        · exact h.1 c hc

theorem Memory.wf_erase {m : Memory} (h : m.wf) (i : Nat) : (m.erase i).wf :=
  ⟨h.1.filter _, fun c hc => h.2 c (List.mem_filter.1 hc).1⟩

/-- Every write keeps the canonical form. -/
theorem Memory.wf_write {m : Memory} (h : m.wf) (i : Nat) (v : Byte) : (m.write i v).wf := by
  unfold Memory.write
  split
  · exact Memory.wf_erase h i
  · next hv => exact Memory.wf_insert h i hv

theorem Memory.wf_writeBytes {m : Memory} (h : m.wf) (a : Nat) (bs : List Byte) : (m.writeBytes a bs).wf := by
  induction bs generalizing a with
  | nil => exact h
  | cons b bs ih => exact Memory.wf_write (ih (a + 1)) a b

theorem Memory.wf_nil : Memory.wf [] := ⟨.nil, nofun⟩

theorem Memory.wf_ofBytes (bs : List Byte) : (Memory.ofBytes bs).wf := Memory.wf_writeBytes Memory.wf_nil 0 bs

/-! ### The bound of a buffer -/

theorem Memory.within_write {m : Memory} {n : Nat} (h : m.within n) {i : Nat} (hi : i < n) (v : Byte) :
    (m.write i v).within n := by
  intro c hc
  unfold Memory.write at hc
  split at hc
  · exact h c (List.mem_filter.1 hc).1
  · rcases Memory.mem_insert hc with rfl | hc
    · exact hi
    · exact h c hc

theorem Memory.within_writeBytes {m : Memory} {n : Nat} (h : m.within n) {a : Nat} {bs : List Byte}
    (hb : a + bs.length ≤ n) : (m.writeBytes a bs).within n := by
  induction bs generalizing a with
  | nil => exact h
  | cons b bs ih =>
    simp only [List.length_cons] at hb
    exact Memory.within_write (ih (by omega)) (by omega) b

theorem Memory.within_ofBytes {bs : List Byte} {n : Nat} (h : bs.length ≤ n) : (Memory.ofBytes bs).within n :=
  Memory.within_writeBytes (by simp) (by omega)

/-- Nothing is listed beyond a buffer's end. -/
theorem Memory.read_of_within {m : Memory} {n : Nat} (h : m.within n) {i : Nat} (hi : n ≤ i) : m.read i = 0#8 := by
  induction m with
  | nil => rfl
  | cons c m ih =>
    obtain ⟨a, b⟩ := c
    have ha : a < n := h (a, b) (by simp)
    rw [Memory.read_cons, if_neg (by omega)]
    exact ih fun c hc => h c (by simp [hc])

/-! ### Equal bytes, equal buffers -/

theorem Memory.read_of_lt {m : Memory} {n : Nat} (h : ∀ c ∈ m, n < c.1) {i : Nat} (hi : i ≤ n) : m.read i = 0#8 := by
  induction m with
  | nil => rfl
  | cons c m ih =>
    obtain ⟨a, b⟩ := c
    have : n < a := h (a, b) (by simp)
    rw [Memory.read_cons, if_neg (by omega)]
    exact ih fun c hc => h c (by simp [hc])

/-- Two canonical buffers that read alike are the same data. -/
theorem Memory.ext_of_wf {m m' : Memory} (h : m.wf) (h' : m'.wf) (e : ∀ i, m.read i = m'.read i) : m = m' := by
  induction m generalizing m' with
  | nil =>
    cases m' with
    | nil => rfl
    | cons c m' =>
      obtain ⟨a, b⟩ := c
      have := e a
      simp [Memory.read_cons] at this
      exact absurd this.symm (by simpa using h'.2 (a, b) (by simp))
  | cons c m ih =>
    obtain ⟨a, b⟩ := c
    have hb : b ≠ 0#8 := by simpa using h.2 (a, b) (by simp)
    have hm : Memory.wf m := ⟨(List.pairwise_cons.1 h.1).2, fun c hc => h.2 c (by simp [hc])⟩
    have hlt := (List.pairwise_cons.1 h.1).1
    cases m' with
    | nil =>
      have := e a
      simp [Memory.read_cons] at this
      exact absurd this hb
    | cons c' m' =>
      obtain ⟨a', b'⟩ := c'
      have hb' : b' ≠ 0#8 := by simpa using h'.2 (a', b') (by simp)
      have hm' : Memory.wf m' := ⟨(List.pairwise_cons.1 h'.1).2, fun c hc => h'.2 c (by simp [hc])⟩
      have hlt' := (List.pairwise_cons.1 h'.1).1
      have haa : a = a' := by
        rcases Nat.lt_trichotomy a a' with hl | hl | hl
        · have := e a
          rw [Memory.read_cons, if_pos rfl, Memory.read_cons, if_neg (by omega),
            Memory.read_of_lt (n := a) (fun c hc => Nat.lt_trans hl (hlt' c hc)) (by omega)] at this
          exact absurd this hb
        · exact hl
        · have := e a'
          rw [Memory.read_cons, if_neg (by omega), Memory.read_cons, if_pos rfl,
            Memory.read_of_lt (n := a') (fun c hc => Nat.lt_trans hl (hlt c hc)) (by omega)] at this
          exact absurd this.symm hb'
      subst haa
      have hbb : b = b' := by simpa [Memory.read_cons] using e a
      subst hbb
      rw [ih hm hm' fun i => ?_]
      by_cases hi : i ≤ a
      · rw [Memory.read_of_lt hlt hi, Memory.read_of_lt hlt' hi]
      · have := e i
        rwa [Memory.read_cons, if_neg (by omega), Memory.read_cons, if_neg (by omega)] at this

end Sys2Proof.Machine
end

