-- ==== Sys2Proof/Laws/State.lean ====
section
/-! SUPPORT. For each named update of the state, the value of every field after it, so that no later proof unfolds a
record update. -/

namespace Sys2Proof.Machine

/-! ### Status -/

@[simp] theorem Status.ended_txv (f : Status) (e : ErrorCode) : (f.ended e).txv = f.txv := rfl
@[simp] theorem Status.ended_rxv (f : Status) (e : ErrorCode) : (f.ended e).rxv = f.rxv := rfl
@[simp] theorem Status.ended_ok (f : Status) (e : ErrorCode) : (f.ended e).ok = f.ok := rfl
@[simp] theorem Status.ended_unck (f : Status) (e : ErrorCode) : (f.ended e).unck = f.unck := rfl
@[simp] theorem Status.ended_tunk (f : Status) (e : ErrorCode) : (f.ended e).tunk = f.tunk := rfl
@[simp] theorem Status.ended_err (f : Status) (e : ErrorCode) : (f.ended e).err = e := rfl

@[simp] theorem Status.encoded_txv (f : Status) : f.encoded.txv = true := rfl
@[simp] theorem Status.encoded_rxv (f : Status) : f.encoded.rxv = f.rxv := rfl
@[simp] theorem Status.encoded_ok (f : Status) : f.encoded.ok = f.ok := rfl
@[simp] theorem Status.encoded_unck (f : Status) : f.encoded.unck = f.unck := rfl
@[simp] theorem Status.encoded_tunk (f : Status) : f.encoded.tunk = f.tunk := rfl
@[simp] theorem Status.encoded_err (f : Status) : f.encoded.err = .none := rfl

@[simp] theorem Status.decoded_txv (f : Status) (t : Byte) : (f.decoded t).txv = f.txv := rfl
@[simp] theorem Status.decoded_rxv (f : Status) (t : Byte) : (f.decoded t).rxv = true := rfl
@[simp] theorem Status.decoded_ok (f : Status) (t : Byte) : (f.decoded t).ok = false := rfl
@[simp] theorem Status.decoded_unck (f : Status) (t : Byte) : (f.decoded t).unck = false := rfl
@[simp] theorem Status.decoded_tunk (f : Status) (t : Byte) : (f.decoded t).tunk = !typeDefined t := rfl
@[simp] theorem Status.decoded_err (f : Status) (t : Byte) : (f.decoded t).err = .none := rfl

@[simp] theorem Status.malformed_txv (f : Status) : f.malformed.txv = f.txv := rfl
@[simp] theorem Status.malformed_rxv (f : Status) : f.malformed.rxv = false := rfl
@[simp] theorem Status.malformed_ok (f : Status) : f.malformed.ok = false := rfl
@[simp] theorem Status.malformed_unck (f : Status) : f.malformed.unck = false := rfl
@[simp] theorem Status.malformed_tunk (f : Status) : f.malformed.tunk = false := rfl
@[simp] theorem Status.malformed_err (f : Status) : f.malformed.err = .malformedPacket := rfl

@[simp] theorem Status.unjudged_txv (f : Status) : f.unjudged.txv = f.txv := rfl
@[simp] theorem Status.unjudged_rxv (f : Status) : f.unjudged.rxv = f.rxv := rfl
@[simp] theorem Status.unjudged_ok (f : Status) : f.unjudged.ok = false := rfl
@[simp] theorem Status.unjudged_unck (f : Status) : f.unjudged.unck = false := rfl
@[simp] theorem Status.unjudged_tunk (f : Status) : f.unjudged.tunk = f.tunk := rfl
@[simp] theorem Status.unjudged_err (f : Status) : f.unjudged.err = .notReady := rfl

@[simp] theorem Status.judged_txv (f : Status) (v : Verdict) : (f.judged v).txv = f.txv := by cases v <;> rfl
@[simp] theorem Status.judged_rxv (f : Status) (v : Verdict) : (f.judged v).rxv = f.rxv := by cases v <;> rfl
@[simp] theorem Status.judged_tunk (f : Status) (v : Verdict) : (f.judged v).tunk = f.tunk := by cases v <;> rfl

theorem Status.judged_ok (f : Status) (v : Verdict) :
    (f.judged v).ok = true ↔ v = .acceptChecked ∨ v = .acceptUnchecked := by cases v <;> simp [Status.judged]

theorem Status.judged_unck (f : Status) (v : Verdict) : (f.judged v).unck = true ↔ v = .acceptUnchecked := by
  cases v <;> simp [Status.judged]

/-! ### `raise` -/

variable (s : State)

@[simp] theorem State.raise_version (e : ErrorCode) : (s.raise e).version = s.version := rfl
@[simp] theorem State.raise_cken (e : ErrorCode) : (s.raise e).cken = s.cken := rfl
@[simp] theorem State.raise_status (e : ErrorCode) : (s.raise e).status = s.status.ended e := rfl
@[simp] theorem State.raise_tx (e : ErrorCode) : (s.raise e).tx = s.tx := rfl
@[simp] theorem State.raise_frame (e : ErrorCode) : (s.raise e).frame = s.frame := rfl
@[simp] theorem State.raise_gram (e : ErrorCode) : (s.raise e).gram = s.gram := rfl
@[simp] theorem State.raise_rx (e : ErrorCode) : (s.raise e).rx = s.rx := rfl
@[simp] theorem State.raise_sum (e : ErrorCode) : (s.raise e).sum = s.sum := rfl
@[simp] theorem State.raise_pending (e : ErrorCode) : (s.raise e).pending = s.pending := rfl
@[simp] theorem State.raise_returned (e : ErrorCode) : (s.raise e).returned = s.returned := rfl

/-! ### `holdPacket` -/

@[simp] theorem State.holdPacket_version (p : Packet) : (s.holdPacket p).version = s.version := rfl
@[simp] theorem State.holdPacket_cken (p : Packet) : (s.holdPacket p).cken = s.cken := rfl
@[simp] theorem State.holdPacket_status (p : Packet) : (s.holdPacket p).status = s.status.decoded p.header.typ := rfl
@[simp] theorem State.holdPacket_tx (p : Packet) : (s.holdPacket p).tx = s.tx := rfl
@[simp] theorem State.holdPacket_frame (p : Packet) : (s.holdPacket p).frame = s.frame := rfl
@[simp] theorem State.holdPacket_gram (p : Packet) : (s.holdPacket p).gram = s.gram := rfl
@[simp] theorem State.holdPacket_ver (p : Packet) : (s.holdPacket p).rx.ver = p.header.version := rfl
@[simp] theorem State.holdPacket_typ (p : Packet) : (s.holdPacket p).rx.typ = p.header.typ := rfl
@[simp] theorem State.holdPacket_flags (p : Packet) : (s.holdPacket p).rx.flags = p.header.flags := rfl
@[simp] theorem State.holdPacket_rsvd (p : Packet) : (s.holdPacket p).rx.rsvd = p.header.reserved := rfl
@[simp] theorem State.holdPacket_seq (p : Packet) : (s.holdPacket p).rx.seq = p.header.sequence := rfl
@[simp] theorem State.holdPacket_plen (p : Packet) : (s.holdPacket p).rx.plen = p.header.payloadLength := rfl
@[simp] theorem State.holdPacket_cksum (p : Packet) : (s.holdPacket p).rx.cksum = p.header.checksum := rfl
@[simp] theorem State.holdPacket_computed (p : Packet) : (s.holdPacket p).rx.computed = 0#16 := rfl
@[simp] theorem State.holdPacket_rxp (p : Packet) : (s.holdPacket p).rx.rxp = Memory.ofBytes p.payload := rfl
@[simp] theorem State.holdPacket_sum (p : Packet) : (s.holdPacket p).sum = s.sum := rfl
@[simp] theorem State.holdPacket_pending (p : Packet) : (s.holdPacket p).pending = s.pending := rfl
@[simp] theorem State.holdPacket_returned (p : Packet) : (s.holdPacket p).returned = s.returned := rfl

/-! ### `dropPacket` -/

@[simp] theorem State.dropPacket_version : s.dropPacket.version = s.version := rfl
@[simp] theorem State.dropPacket_cken : s.dropPacket.cken = s.cken := rfl
@[simp] theorem State.dropPacket_status : s.dropPacket.status = s.status.malformed := rfl
@[simp] theorem State.dropPacket_tx : s.dropPacket.tx = s.tx := rfl
@[simp] theorem State.dropPacket_frame : s.dropPacket.frame = s.frame := rfl
@[simp] theorem State.dropPacket_gram : s.dropPacket.gram = s.gram := rfl
@[simp] theorem State.dropPacket_rx : s.dropPacket.rx = RxPacket.reset := rfl
@[simp] theorem State.dropPacket_sum : s.dropPacket.sum = s.sum := rfl
@[simp] theorem State.dropPacket_pending : s.dropPacket.pending = s.pending := rfl
@[simp] theorem State.dropPacket_returned : s.dropPacket.returned = s.returned := rfl

/-! ### `resetBlock` -/

@[simp] theorem State.resetBlock_version : s.resetBlock.version = s.version := rfl
@[simp] theorem State.resetBlock_cken : s.resetBlock.cken = true := rfl
@[simp] theorem State.resetBlock_status : s.resetBlock.status = Status.reset := rfl
@[simp] theorem State.resetBlock_tx : s.resetBlock.tx = TxInputs.reset := rfl
@[simp] theorem State.resetBlock_frame : s.resetBlock.frame = TxFrame.reset := rfl
@[simp] theorem State.resetBlock_gram : s.resetBlock.gram = RxGram.reset := rfl
@[simp] theorem State.resetBlock_rx : s.resetBlock.rx = RxPacket.reset := rfl
@[simp] theorem State.resetBlock_sum : s.resetBlock.sum = 0#16 := rfl
@[simp] theorem State.resetBlock_pending : s.resetBlock.pending = s.pending := rfl
@[simp] theorem State.resetBlock_returned : s.resetBlock.returned = s.returned := rfl

/-! ### `taken` and `give` -/

@[simp] theorem State.taken_version (es : List Event) : (s.taken es).version = s.version := rfl
@[simp] theorem State.taken_cken (es : List Event) : (s.taken es).cken = s.cken := rfl
@[simp] theorem State.taken_status (es : List Event) : (s.taken es).status = s.status := rfl
@[simp] theorem State.taken_tx (es : List Event) : (s.taken es).tx = s.tx := rfl
@[simp] theorem State.taken_frame (es : List Event) : (s.taken es).frame = s.frame := rfl
@[simp] theorem State.taken_gram (es : List Event) : (s.taken es).gram = s.gram := rfl
@[simp] theorem State.taken_rx (es : List Event) : (s.taken es).rx = s.rx := rfl
@[simp] theorem State.taken_sum (es : List Event) : (s.taken es).sum = s.sum := rfl
@[simp] theorem State.taken_pending (es : List Event) : (s.taken es).pending = es := rfl
@[simp] theorem State.taken_returned (es : List Event) : (s.taken es).returned = s.returned := rfl
@[simp] theorem State.taken_readReg (es : List Event) (r : Reg) : (s.taken es).readReg r = s.readReg r := by
  cases r <;> rfl
@[simp] theorem State.taken_readByte (es : List Event) (b : Buf) (i : Nat) :
    (s.taken es).readByte b i = s.readByte b i := by cases b <;> rfl
@[simp] theorem State.taken_datagram (es : List Event) : (s.taken es).datagram = s.datagram := rfl

@[simp] theorem State.give_version (a : Answer) : (s.give a).version = s.version := rfl
@[simp] theorem State.give_cken (a : Answer) : (s.give a).cken = s.cken := rfl
@[simp] theorem State.give_status (a : Answer) : (s.give a).status = s.status := rfl
@[simp] theorem State.give_tx (a : Answer) : (s.give a).tx = s.tx := rfl
@[simp] theorem State.give_frame (a : Answer) : (s.give a).frame = s.frame := rfl
@[simp] theorem State.give_gram (a : Answer) : (s.give a).gram = s.gram := rfl
@[simp] theorem State.give_rx (a : Answer) : (s.give a).rx = s.rx := rfl
@[simp] theorem State.give_sum (a : Answer) : (s.give a).sum = s.sum := rfl
@[simp] theorem State.give_pending (a : Answer) : (s.give a).pending = s.pending := rfl
@[simp] theorem State.give_returned (a : Answer) : (s.give a).returned = a :: s.returned := rfl
@[simp] theorem State.give_readReg (a : Answer) (r : Reg) : (s.give a).readReg r = s.readReg r := by
  cases r <;> rfl
@[simp] theorem State.give_readByte (a : Answer) (b : Buf) (i : Nat) :
    (s.give a).readByte b i = s.readByte b i := by cases b <;> rfl

/-! ### Register and byte writes -/

theorem State.writeReg_version (r : Reg) (v : BitVec r.width) : (s.writeReg r v).version = s.version := by
  cases r <;> rfl
theorem State.writeReg_status (r : Reg) (v : BitVec r.width) : (s.writeReg r v).status = s.status := by
  cases r <;> rfl
theorem State.writeReg_frame (r : Reg) (v : BitVec r.width) : (s.writeReg r v).frame = s.frame := by
  cases r <;> rfl
theorem State.writeReg_rx (r : Reg) (v : BitVec r.width) : (s.writeReg r v).rx = s.rx := by cases r <;> rfl
theorem State.writeReg_sum (r : Reg) (v : BitVec r.width) : (s.writeReg r v).sum = s.sum := by cases r <;> rfl
theorem State.writeReg_txp (r : Reg) (v : BitVec r.width) : (s.writeReg r v).tx.txp = s.tx.txp := by
  cases r <;> rfl
theorem State.writeReg_rxf (r : Reg) (v : BitVec r.width) : (s.writeReg r v).gram.rxf = s.gram.rxf := by
  cases r <;> rfl
theorem State.writeReg_pending (r : Reg) (v : BitVec r.width) : (s.writeReg r v).pending = s.pending := by
  cases r <;> rfl
theorem State.writeReg_returned (r : Reg) (v : BitVec r.width) : (s.writeReg r v).returned = s.returned := by
  cases r <;> rfl

theorem State.writeByte_version (b : Buf) (i : Nat) (v : Byte) : (s.writeByte b i v).version = s.version := by
  cases b <;> rfl
theorem State.writeByte_status (b : Buf) (i : Nat) (v : Byte) : (s.writeByte b i v).status = s.status := by
  cases b <;> rfl
theorem State.writeByte_frame (b : Buf) (i : Nat) (v : Byte) : (s.writeByte b i v).frame = s.frame := by
  cases b <;> rfl
theorem State.writeByte_rx (b : Buf) (i : Nat) (v : Byte) : (s.writeByte b i v).rx = s.rx := by cases b <;> rfl
theorem State.writeByte_len (b : Buf) (i : Nat) (v : Byte) : (s.writeByte b i v).gram.len = s.gram.len := by
  cases b <;> rfl
theorem State.writeByte_sum (b : Buf) (i : Nat) (v : Byte) : (s.writeByte b i v).sum = s.sum := by
  cases b <;> rfl
theorem State.writeByte_pending (b : Buf) (i : Nat) (v : Byte) : (s.writeByte b i v).pending = s.pending := by
  cases b <;> rfl
theorem State.writeByte_returned (b : Buf) (i : Nat) (v : Byte) : (s.writeByte b i v).returned = s.returned := by
  cases b <;> rfl
theorem State.writeByte_readReg (b : Buf) (i : Nat) (v : Byte) (r : Reg) :
    (s.writeByte b i v).readReg r = s.readReg r := by cases b <;> cases r <;> rfl

end Sys2Proof.Machine
end

