-- ==== Sys2Proof/Laws/Ops.lean ====
section
/-! SUPPORT. What each shared operation can do, said once: the received bytes, DECODE's state change, the packet that
ENCODE builds. -/

namespace Sys2Proof.Machine

@[simp] theorem State.datagram_length (s : State) : s.datagram.length = s.gram.len.toNat := by
  simp [State.datagram]

theorem State.byteAt_datagram (s : State) {i : Nat} (h : i < s.gram.len.toNat) :
    byteAt s.datagram i = s.gram.rxf.read i := byteAt_bytes _ h

theorem State.datagram_congr {s t : State} (hl : s.gram.len = t.gram.len)
    (h : ∀ i, i < s.gram.len.toNat → s.gram.rxf.read i = t.gram.rxf.read i) : s.datagram = t.datagram := by
  unfold State.datagram
  rw [← hl]
  exact Memory.bytes_congr h

theorem State.receive_ok {s : State} {bs : List Byte} {p : Packet} (h : decodePacket bs = .ok p) :
    s.receive bs = s.holdPacket p := by simp [State.receive, h]

theorem State.receive_error {s : State} {bs : List Byte} {e : Reject} (h : decodePacket bs = .error e) :
    s.receive bs = s.dropPacket := by simp [State.receive, h]

/-- Everything DECODE of a byte sequence can do. -/
theorem State.receive_cases (s : State) (bs : List Byte) :
    (∃ p, decodePacket bs = .ok p ∧ s.receive bs = s.holdPacket p) ∨
      (∃ e, decodePacket bs = .error e ∧ s.receive bs = s.dropPacket) := by
  cases h : decodePacket bs with
  | ok p => exact .inl ⟨p, rfl, State.receive_ok h⟩
  | error e => exact .inr ⟨e, rfl, State.receive_error h⟩

/-- The packet held after a DECODE is the packet decoded. -/
theorem State.heldPacket_holdPacket (s : State) {p : Packet}
    (h : p.payload.length = p.header.payloadLength.toNat) : (s.holdPacket p).heldPacket = p := by
  obtain ⟨⟨v, t, f, r, q, l, c⟩, b⟩ := p
  simp only [State.heldPacket, State.holdPacket]
  congr 1
  simp only at h
  rw [← h, Memory.bytes_ofBytes]

theorem typeDefined_iff (t : Byte) :
    typeDefined t = true ↔ t ∈ [0x01#8, 0x02#8, 0x03#8, 0x10#8, 0x11#8, 0x20#8, 0x21#8] := by
  simp [typeDefined, Config.definedTypes]

theorem payloadCount_le (l : Half) : payloadCount l ≤ 512 := by simp [payloadCount]

theorem payloadCount_eq (l : Half) : payloadCount l = min l.toNat 512 := by simp [payloadCount]

/-- The length field of an encoded packet is the number of payload bytes placed. -/
@[simp] theorem encodePacket_plen (v : Byte) (k : Bool) (t f r : Byte) (q : Word) (l : Half) (p : List Byte) :
    (encodePacket v k t f r q l p).header.payloadLength.toNat = payloadCount l := by
  have := payloadCount_le l
  simp only [encodePacket, BitVec.toNat_ofNat]
  omega

@[simp] theorem encodePacket_payload (v : Byte) (k : Bool) (t f r : Byte) (q : Word) (l : Half) (p : List Byte) :
    (encodePacket v k t f r q l p).payload = p.take (payloadCount l) := rfl

/-- The checksum field of an encoded packet: the sum with the field taken as zero, or zero (R92). -/
theorem encodePacket_checksum (v : Byte) (k : Bool) (t f r : Byte) (q : Word) (l : Half) (p : List Byte) :
    (encodePacket v k t f r q l p).header.checksum =
      if k then checksumOf (encodePacket v k t f r q l p) else 0#16 := rfl

end Sys2Proof.Machine
end

