-- ==== Sys2Proof/Laws/Exec.lean ====
section
/-! SUPPORT. One equation per command and case: what `exec` answers, under a condition on the state alone. -/

namespace Sys2Proof.Machine

theorem exec_decode_ok {s : State} {p : Packet} (h : decodePacket s.datagram = .ok p) :
    exec .decode s = .next (s.holdPacket p) := by
  simp [exec, execDecode, State.receive_ok h]

theorem exec_decode_error {s : State} {e : Reject} (h : decodePacket s.datagram = .error e) :
    exec .decode s = .next s.dropPacket := by
  simp [exec, execDecode, State.receive_error h]

theorem exec_validate_held {s : State} (h : s.status.rxv = true) :
    exec .validate s =
      .next
        { s with
          rx := { s.rx with computed := checksumOf s.heldPacket }
          status := s.status.judged (validatePacket s.version s.heldPacket) } := by
  simp [exec, execValidate, h]

theorem exec_validate_none {s : State} (h : s.status.rxv = false) :
    exec .validate s = .next { s with status := s.status.unjudged } := by
  simp [exec, execValidate, h]

theorem exec_loop_ready {s : State} (h : s.status.txv = true) :
    exec .loop s =
      .next { s.raise .none with gram := { len := s.frame.len, rxf := s.gram.rxf.writeBytes 0 s.encodedFrame } } := by
  simp [exec, execLoop, h]

theorem exec_loop_notReady {s : State} (h : s.status.txv = false) : exec .loop s = .next (s.raise .notReady) := by
  simp [exec, execLoop, h]

theorem exec_csum (s : State) : exec .csum s = .next { s.raise .none with sum := byteSum s.datagram } := rfl

/-- Every instruction answers a next state, in every state. -/
theorem exec_next (i : Instr) (s : State) : ∃ t, exec i s = .next t := by
  cases i <;>
    simp [exec, execSyn, execSynAck, execAck, execMsg, execMsgAck, execFin, execFinAck, execFrame, execEncode,
      execDecode, execValidate, execCsum, execLoop, execReset]
  all_goals split <;> simp

theorem exec_reset (s : State) : exec .reset s = .next s.resetBlock := rfl

/-- What the seven frame rows do: DECODE of the frame's bytes. -/
theorem exec_of_packet {p : Packet} {i : Instr} (h : instrOfPacket p = .ok i) (s : State) :
    exec i s = .next (s.receive (p.bytes.take 524)) := by
  obtain ⟨⟨v, t, f, r, q, l, c⟩, b⟩ := p
  simp only [instrOfPacket] at h
  repeat' split at h
  all_goals first | (cases h; subst_vars; rfl) | cases h

end Sys2Proof.Machine
end

