-- ==== Sys2Proof/Laws/PerInstr.lean ====
section
/-! SUPPORT. A statement about every instruction as syntax, one lemma per constructor. -/

namespace Sys2Proof.Laws.EncodedForm

open Sys2Proof.Machine

/-- What an instruction's encoding looks like: a command is a code from 1 to 6 (R78); a well-formed frame has a defined
type code in byte 1 (R70), fits the receive buffer, and its length is what its own length field says (R63, R65). -/
def Statement (i : Instr) : Prop :=
  match encode i with
  | .command c => 1 ≤ c.toNat ∧ c.toNat ≤ 6
  | .datagram bs => i.wf = true →
      typeDefined (byteAt bs 1) = true ∧ bs.length = 12 + (unpackHeader bs).payloadLength.toNat ∧ bs.length ≤ 524

/-- The same for every frame, given its type code. -/
theorem frame (t : Byte) (ht : typeDefined t = true) (f : FrameOperands) (h : f.wf = true) :
    typeDefined (byteAt (f.packet t).bytes 1) = true ∧
      (f.packet t).bytes.length = 12 + (unpackHeader (f.packet t).bytes).payloadLength.toNat ∧
      (f.packet t).bytes.length ≤ 524 := by
  simp only [FrameOperands.wf, FrameOperands.lengthLegal, FrameOperands.lengthMatches, Bool.and_eq_true,
    decide_eq_true_eq, Config.maxPayload] at h
  have hl : (unpackHeader (f.packet t).bytes).payloadLength = f.payloadLength := be16_byteOf _
  refine ⟨ht, ?_, ?_⟩
  · rw [hl, Packet.bytes_length]
    exact congrArg (12 + ·) h.2
  · rw [Packet.bytes_length]
    show 12 + f.payload.length ≤ 524
    omega

theorem syn (f : FrameOperands) : Statement (.syn f) := frame _ (by decide) f
theorem synAck (f : FrameOperands) : Statement (.synAck f) := frame _ (by decide) f
theorem ack (f : FrameOperands) : Statement (.ack f) := frame _ (by decide) f
theorem msg (f : FrameOperands) : Statement (.msg f) := frame _ (by decide) f
theorem msgAck (f : FrameOperands) : Statement (.msgAck f) := frame _ (by decide) f
theorem fin (f : FrameOperands) : Statement (.fin f) := frame _ (by decide) f
theorem finAck (f : FrameOperands) : Statement (.finAck f) := frame _ (by decide) f
theorem encode : Statement .encode := by simp [Statement, Sys2Proof.encode]
theorem decode : Statement .decode := by simp [Statement, Sys2Proof.encode]
theorem validate : Statement .validate := by simp [Statement, Sys2Proof.encode]
theorem csum : Statement .csum := by simp [Statement, Sys2Proof.encode]
theorem loop : Statement .loop := by simp [Statement, Sys2Proof.encode]
theorem reset : Statement .reset := by simp [Statement, Sys2Proof.encode]

end Sys2Proof.Laws.EncodedForm
end

