-- ==== Sys2Proof/Laws/Step.lean ====
section
/-! SUPPORT. Everything an event and a step can do, said once. -/

namespace Sys2Proof.Machine

/-- Which bytes are commands (R78). -/
theorem decode_command_cases {c : Byte} {i : Instr} (h : decode (.command c) = .ok i) :
    (c = 0x01#8 ∧ i = .encode) ∨ (c = 0x02#8 ∧ i = .decode) ∨ (c = 0x03#8 ∧ i = .validate) ∨
      (c = 0x04#8 ∧ i = .csum) ∨ (c = 0x05#8 ∧ i = .loop) ∨ (c = 0x06#8 ∧ i = .reset) := by
  simp only [decode, decodeCommand] at h
  repeat' split at h
  all_goals simp_all

/-- Everything an event that has a next state can do. -/
theorem perform_cases {e : Event} {s t : State} (h : perform e s = .next t) :
    (∃ r, e = .rd r ∧ t = s.give (.reg r (s.readReg r))) ∨
    (∃ b i, e = .rdb b i ∧ i < b.size ∧ t = s.give (.byte b i (s.readByte b i))) ∨
    (∃ r v, e = .wr r v ∧ r ≠ .cmd ∧ t = s.writeReg r v) ∨
    (∃ b i v, e = .wrb b i v ∧ i < b.size ∧ t = s.writeByte b i v) ∨
    (∃ c i, e = .wr .cmd c ∧ decode (.command c) = .ok i ∧ exec i s = .next t) ∨
    (∃ c r, e = .wr .cmd c ∧ decode (.command c) = .error r ∧ t = s.raise .illegalCommand) ∨
    (e = .hardReset ∧ t = s.resetBlock) := by
  cases e with
  | rd r =>
    simp only [perform, performRd, Host.Outcome.next.injEq] at h
    exact .inl ⟨r, rfl, h.symm⟩
  | wr r v =>
    by_cases hr : r = .cmd
    · subst hr
      simp only [perform, performWr, runCommand] at h
      split at h
      · next i hi => exact .inr (.inr (.inr (.inr (.inl ⟨v, i, rfl, hi, h⟩))))
      · next r hr =>
        simp only [Host.Outcome.next.injEq] at h
        exact .inr (.inr (.inr (.inr (.inr (.inl ⟨v, r, rfl, hr, h.symm⟩)))))
    · have : t = s.writeReg r v := by
        cases r <;> first | exact absurd rfl hr | simpa [perform, performWr] using h.symm
      exact .inr (.inr (.inl ⟨r, v, rfl, hr, this⟩))
  | rdb b i =>
    simp only [perform, performRdb] at h
    split at h
    · next hi =>
      simp only [Host.Outcome.next.injEq] at h
      exact .inr (.inl ⟨b, i, rfl, hi, h.symm⟩)
    · cases h
  | wrb b i v =>
    simp only [perform, performWrb] at h
    split at h
    · next hi =>
      simp only [Host.Outcome.next.injEq] at h
      exact .inr (.inr (.inr (.inl ⟨b, i, v, rfl, hi, h.symm⟩)))
    · cases h
  | hardReset =>
    simp only [perform, Host.Outcome.next.injEq] at h
    exact .inr (.inr (.inr (.inr (.inr (.inr ⟨rfl, h.symm⟩)))))
  | noRegister k => cases h
  | noBuffer k i => cases h

/-- Everything a step can do. -/
theorem step_cases {s t : State} (h : step s = .next t) :
    (s.pending = [] ∧ t = s) ∨
      ∃ e rest, s.pending = e :: rest ∧ perform e (s.taken rest) = .next t := by
  unfold step nextEvent at h
  split at h
  · next hp => exact .inl ⟨hp, by simpa using h.symm⟩
  · next e rest hp => exact .inr ⟨e, rest, hp, h⟩

theorem step_of_pending {s : State} {e : Event} {rest : List Event} (h : s.pending = e :: rest) :
    step s = perform e (s.taken rest) := by simp [step, nextEvent, h]

theorem perform_cmd (c : Byte) (s : State) : perform (.wr .cmd c) s = runCommand c s := rfl

theorem perform_wr {r : Reg} (h : r ≠ .cmd) (v : BitVec r.width) (s : State) :
    perform (.wr r v) s = .next (s.writeReg r v) := by
  cases r <;> first | exact absurd rfl h | rfl

theorem runCommand_ok {c : Byte} {i : Instr} (h : decode (.command c) = .ok i) (s : State) :
    runCommand c s = exec i s := by simp [runCommand, h]

end Sys2Proof.Machine
end

