-- ==== Sys2Proof/Tests/Slice0.lean ====
section
/-! SUPPORT. Tests of the model against the spec's own examples (95_test_vectors.md, which takes `SCP_VERSION` = 0x01,
and the examples of rules R66 and R71 to R77), and for every obligation with hypotheses a state that meets them. -/

namespace Sys2Proof.Tests

open Sys2Proof.Machine

/-! ### Small states -/

/-- The reset state of a block with `SCP_VERSION` = 0x01. -/
def bare : State := { State.reset with version := 0x01 }

/-- `LOADF` (R87) on the bare state. -/
def loaded (bs : List Byte) : State :=
  { bare with gram := { len := BitVec.ofNat 10 bs.length, rxf := Memory.ofBytes bs } }

/-- The bare state with a packet decoded from `bs` before. -/
def decoded (bs : List Byte) : State := (loaded bs).receive bs

/-- The bare state with the transmit registers of one packet. -/
def asked (typ flags rsvd : Byte) (seq : Word) (len : Half) (payload : List Byte) : State :=
  { bare with
    tx := { typ := typ, flags := flags, rsvd := rsvd, seq := seq, len := len, txp := Memory.ofBytes payload } }

/-- The bare state after an ENCODE of the frame T1. -/
def sent : State :=
  { bare with
    frame := { cksum := 0x0003, len := 12, txf := Memory.ofBytes [0x01, 0x01, 0, 0, 0, 0, 0, 0x01, 0, 0, 0, 0x03] }
    status := bare.status.encoded }

/-- The bare state with one event waiting. -/
def facing (e : Event) : State := { bare with pending := [e] }

/-- The outcome is a next state that meets `p`. -/
def goes (o : Host.Outcome State Fault Refusal) (p : State → Bool := fun _ => true) : Bool :=
  match o with
  | .next t => p t
  | _ => false

/-- The frame T5 (R74): MSG, sequence 1, "hi". -/
def t5 : List Byte := [0x01, 0x10, 0, 0, 0, 0, 0, 0x01, 0, 0x02, 0, 0xE5, 0x68, 0x69]

/-- The frame T13 (R66): flags, reserved and every sequence byte distinct. -/
def t13 : List Byte := [0x01, 0x10, 0xA5, 0x5A, 0x12, 0x34, 0x56, 0x78, 0, 0x02, 0x03, 0x25, 0, 0xFF]

/-- The operands of T5. -/
def hi : FrameOperands := ⟨0x01, 0x00, 0x00, 0x00000001, 0x0002, 0x00E5, [0x68, 0x69]⟩

/-! ### Well-formedness: one ill-formed term for each check -/

theorem test_wf_refuses_long_length :
    (Instr.msg ⟨0x01, 0, 0, 1, 513, 0, List.replicate 513 0⟩).wf = false := by decide +kernel

theorem test_wf_refuses_other_length : (Instr.msg { hi with payloadLength := 3 }).wf = false := by decide

theorem test_wf_accepts : (Instr.msg hi).wf = true ∧ Instr.loop.wf = true := by decide

/-! ### Decoding: every constructor, by words written out from R71 to R78 -/

theorem test_decode_syn : decode (.datagram [0x01, 0x01, 0, 0, 0, 0, 0, 0x01, 0, 0, 0, 0x03]) =
    .ok (.syn ⟨0x01, 0, 0, 1, 0, 0x0003, []⟩) := by rfl

theorem test_decode_synAck : decode (.datagram [0x01, 0x02, 0, 0, 0, 0, 0, 0x64, 0, 0, 0, 0x67]) =
    .ok (.synAck ⟨0x01, 0, 0, 100, 0, 0x0067, []⟩) := by rfl

theorem test_decode_ack : decode (.datagram [0x01, 0x03, 0, 0, 0, 0, 0, 0, 0, 0, 0, 0x04]) =
    .ok (.ack ⟨0x01, 0, 0, 0, 0, 0x0004, []⟩) := by rfl

theorem test_decode_msg : decode (.datagram t13) =
    .ok (.msg ⟨0x01, 0xA5, 0x5A, 0x12345678, 0x0002, 0x0325, [0x00, 0xFF]⟩) := by rfl

theorem test_decode_msgAck : decode (.datagram [0x01, 0x11, 0, 0, 0, 0, 0, 0x01, 0, 0, 0, 0x13, 0xAA, 0xBB]) =
    .ok (.msgAck ⟨0x01, 0, 0, 1, 0, 0x0013, []⟩) := by rfl

theorem test_decode_fin : decode (.datagram [0x01, 0x20, 0, 0, 0x01, 0x02, 0x03, 0x04, 0, 0, 0, 0x2B]) =
    .ok (.fin ⟨0x01, 0, 0, 0x01020304, 0, 0x002B, []⟩) := by rfl

theorem test_decode_finAck : decode (.datagram [0x01, 0x21, 0, 0, 0x01, 0x02, 0x03, 0x04, 0, 0, 0, 0x2C]) =
    .ok (.finAck ⟨0x01, 0, 0, 0x01020304, 0, 0x002C, []⟩) := by rfl

theorem test_decode_commands :
    [0b00000001#8, 0b00000010#8, 0b00000011#8, 0b00000100#8, 0b00000101#8, 0b00000110#8].map
        (fun c => (decode (.command c)).toOption) =
      [some .encode, some .decode, some .validate, some .csum, some .loop, some .reset] := by decide

theorem test_decode_rejects :
    decode (.command 0x00) = .error (.illegalCommand 0x00) ∧ decode (.command 0x07) = .error (.illegalCommand 0x07) ∧
    decode (.datagram (t5.take 11)) = .error .shortHeader ∧ decode (.datagram (t5.take 13)) = .error .shortPayload ∧
    decode (.datagram [0x01, 0x7F, 0, 0, 0, 0, 0, 0, 0, 0, 0, 0x80]) = .error (.undefinedType 0x7F) := by
  refine ⟨rfl, rfl, rfl, rfl, rfl⟩

/-- R84: no legal frame has a length of 513. -/
theorem test_decode_rejects_long :
    decode (.datagram ([0x01, 0x10, 0, 0, 0, 0, 0, 0x01, 0x02, 0x01, 0, 0] ++ List.replicate 513 0)) =
      .error .payloadTooLong := by decide +kernel

/-- The header of a table row as one 96-bit number, byte 0 on top, with its payload bytes of zero. -/
theorem test_tableWord :
    decodeTableWord 96 0x011000000000000100020014 = some (.msg ⟨0x01, 0, 0, 1, 2, 0x0014, [0, 0]⟩) ∧
    decodeTableWord 8 0x05 = some .loop ∧ decodeTableWord 8 0x07 = none ∧ decodeTableWord 16 0x0105 = none := by
  refine ⟨rfl, rfl, rfl, rfl⟩

theorem test_fetchWord :
    goes (step (State.reset.withFetchWord 96 0x012000000102030400000000)) (fun t =>
      t.rx.typ == 0x20 && t.rx.seq == 0x01020304 && t.status.rxv && t.pending.isEmpty) = true ∧
    goes (step (State.reset.withFetchWord 8 0x05)) (fun t => t.status.err == .notReady) = true := by decide

/-! ### ENCODE (95_test_vectors.md 2.1) -/

/-- T13. -/
theorem test_encode_carries_flags :
    goes (exec .encode (asked 0x10 0xA5 0x5A 0x12345678 2 [0x00, 0xFF])) (fun t =>
      t.encodedFrame == t13 && t.frame.cksum == 0x0325 && t.status.word == 0x0001) = true := by decide +kernel

/-- T20 and V15: an offer of 65535 bytes of zero with `CKEN` = 0. -/
theorem test_encode_truncates :
    goes (exec .encode { asked 0x10 0 0 1 0xFFFF [] with cken := false }) (fun t =>
      t.encodedFrame.take 12 == [0x01, 0x10, 0, 0, 0, 0, 0, 0x01, 0x02, 0, 0, 0] && t.frame.len == 524) = true := by
  decide +kernel

/-! ### DECODE (2.2) and the frame rows -/

/-- DV7 and DV8: trailing bytes are ignored, and an undefined type is marked. -/
theorem test_decode_trailing :
    goes (exec .decode (loaded [0x01, 0x11, 0, 0, 0, 0, 0, 0x01, 0, 0, 0, 0x13, 0xAA, 0xBB])) (fun t =>
      t.rx.typ == 0x11 && t.rx.cksum == 0x0013 && t.rx.rxp.isEmpty && t.status.word == 0x0002) = true ∧
    goes (exec .decode (loaded [0x01, 0x7F, 0, 0, 0, 0, 0, 0, 0, 0, 0, 0x80]))
      (fun t => t.status.word == 0x0012) = true := by decide

/-- DV5: one payload byte short. -/
theorem test_decode_short :
    goes (exec .decode (loaded [0x01, 0x10, 0, 0, 0, 0, 0, 0x01, 0, 0x03, 0, 0, 0x68, 0x69])) (fun t =>
      t.rx == RxPacket.reset && t.status.word == 0x0100) = true := by decide

/-- DV1, through the row of R74. -/
theorem test_msg :
    goes (exec (.msg hi) bare) (fun t =>
      t.rx.typ == 0x10 && t.rx.cksum == 0x00E5 && t.rx.rxp.bytes 3 == [0x68, 0x69, 0x00]
        && t.status.word == 0x0002) = true := by decide

/-! ### VALIDATE (2.4) -/

/-- V9: both wrong, and the version is reported. -/
theorem test_validate_version_first :
    goes (exec .validate (decoded [0x02, 0x10, 0, 0, 0, 0, 0, 0x01, 0, 0x02, 0x12, 0x34, 0x68, 0x69])) (fun t =>
      t.rx.computed == 0x00E6 && t.status.word == 0x0202) = true := by decide +kernel

/-- V2: the zero escape still computes the sum. -/
theorem test_validate_unchecked :
    goes (exec .validate (decoded [0x01, 0x10, 0, 0, 0, 0, 0, 0x01, 0, 0x02, 0, 0, 0x68, 0x69])) (fun t =>
      t.rx.computed == 0x00E5 && t.status.word == 0x000E) = true := by decide +kernel

/-! ### CSUM (2.3), LOOP and RESET (2.5) -/

/-- KV3 and KV9: nothing is zeroed, and only `RXF_LEN` bytes count. -/
theorem test_csum :
    goes (exec .csum (loaded t5)) (fun t => t.sum == 0x01CA && t.status.word == 0x0000) = true ∧
    goes (exec .csum { loaded t5 with gram := { (loaded t5).gram with len := 12 } })
      (fun t => t.sum == 0x00F9) = true := by
  decide +kernel

/-- KV5: the sum wraps with no end-around carry. -/
theorem test_csum_wraps :
    goes (exec .csum (loaded (List.replicate 258 0xFF))) (fun t => t.sum == 0x00FE) = true := by decide +kernel

/-- LV3: bytes beyond the frame are kept. -/
theorem test_loop_keeps_rest :
    goes (exec .loop { sent with gram := { len := 20, rxf := Memory.ofBytes (List.replicate 20 0xEE) } }) (fun t =>
      t.datagram == [0x01, 0x01, 0, 0, 0, 0, 0, 0x01, 0, 0, 0, 0x03] && t.gram.rxf.bytes 20 ==
        t.datagram ++ List.replicate 8 0xEE && t.status.word == 0x0001) = true := by decide +kernel

/-- LV1. -/
theorem test_loop_notReady :
    goes (exec .loop bare) (fun t => t.gram.len == 0 && t.status.word == 0x0400) = true := by decide

/-- LV4, LV5. -/
theorem test_reset : goes (exec .reset { asked 0x10 0 0 1 1 [1] with cken := false }) (fun t => t == bare) = true := by
  decide

/-! ### Host accesses (2.6) -/

/-- HV4, HV15, HV11. -/
theorem test_writes :
    goes (step (facing (.wr .ctrl 0xFE))) (fun t => t.readReg .ctrl == 0x00) = true ∧
    goes (step (facing (.wr .rxfLen 525))) (fun t => t.readReg .rxfLen == 524) = true ∧
    goes (step (facing (.wr .rxfLen 1023))) (fun t => t.readReg .rxfLen == 524) = true ∧
    goes (step (facing (.wrb .txf 0 0xAB))) (fun t => t.readByte .txf 0 == 0x00) = true := by decide

/-- LV7: an illegal code changes only `ERR`. -/
theorem test_illegal_command :
    goes (step { facing (.wr .cmd 0x07) with status := ⟨true, true, true, false, false, .none⟩ }) (fun t =>
      t.status.word == 0x0507) = true := by decide

/-- HV14. -/
theorem test_refused :
    step (facing (.rdb .txp 512)) = .refused (.noSuchIndex .txp 512) ∧
    step (facing (.rdb .rxf 524)) = .refused (.noSuchIndex .rxf 524) ∧
    step (facing (.rdNumber 21)) = .refused (.noSuchRegister 21) ∧
    step (facing (.rdbNumber 4 0)) = .refused (.noSuchBuffer 4) := by
  refine ⟨rfl, rfl, rfl, rfl⟩

/-! ### Hypotheses that can be met, one theorem for each obligation that has some -/

theorem witness_ResetKeepsOnlyTheHostsLists : ∃ s, Reachable s ∧ s.pending ≠ [] ∧ s.status.txv = true :=
  ⟨_, .next (.start [.wr .cmd 0x01, .wr .cmd 0x06]) rfl, by decide, rfl⟩

/-- The state after reset with ENCODE as the next command meets the invariant and steps. -/
theorem witness_StepKeepsInvariant :
    ∃ t, State.Inv { State.reset with pending := [.wr .cmd 0x01] } ∧
      step { State.reset with pending := [.wr .cmd 0x01] } = .next t := by
  refine ⟨_, ?_, rfl⟩
  constructor <;> try simp [State.reset, TxInputs.reset, TxFrame.reset, RxGram.reset, RxPacket.reset, Status.reset]
  · intro b; cases b <;> exact Memory.wf_nil
  · intro b; cases b <;> simp [State.buf]

/-- A bare header with type `typ` and checksum field `c` behind the right version byte, received, decoded and validated:
a reachable state whose flags are the policy's verdict. -/
theorem reachable_judged (typ : Byte) (c : Half) :
    let p : Packet := ⟨⟨Config.scpVersion, typ, 0, 0, 0, 0, c⟩, []⟩
    ∃ s, Reachable s ∧ s.status = (Status.reset.decoded typ).judged (validatePacket Config.scpVersion p) := by
  intro p
  let rest : List Event := [.wr .rxfLen 12, .wr .cmd 0x02, .wr .cmd 0x03]
  let rxf : Memory := (((Memory.write [] 0 Config.scpVersion).write 1 typ).write 10 (byteOf c 1)).write 11 (byteOf c 0)
  let s : State :=
    { State.reset with gram := { len := 12, rxf := rxf }, pending := [.wr .cmd 0x02, .wr .cmd 0x03] }
  have h : Reachable s :=
    .next (.next (.next (.next (.next
      (.start (.wrb .rxf 0 Config.scpVersion :: .wrb .rxf 1 typ :: .wrb .rxf 10 (byteOf c 1) ::
        .wrb .rxf 11 (byteOf c 0) :: rest)) rfl) rfl) rfl) rfl) rfl
  have hd : s.datagram = p.bytes := by
    simp [s, rxf, p, State.datagram, Memory.bytes, List.range, List.range.loop, Memory.read_write, Packet.bytes,
      packHeader]
    decide
  have hp : decodePacket p.bytes = .ok p := by
    simp [decodePacket, p, Packet.bytes, packHeader, unpackHeader, byteAt]
  have h₁ : step s = .next ((s.taken [.wr .cmd 0x03]).holdPacket p) :=
    (show step s = exec .decode (s.taken [.wr .cmd 0x03]) from rfl).trans (exec_decode_ok (hd ▸ hp))
  have h₂ : ∀ u, u.pending = [.wr .cmd 0x03] → step u = exec .validate (u.taken []) := fun u hu => by
    rw [step_of_pending hu]
    rfl
  exact ⟨_, .next (.next h h₁) ((h₂ _ rfl).trans (exec_validate_held rfl)), rfl⟩

/-- A header of zeros behind the version byte is accepted unchecked. -/
theorem witness_OkMeansThePolicyAccepts :
    ∃ s, Reachable s ∧ s.status.ok = true ∧ s.status.unck = true := by
  obtain ⟨s, h, e⟩ := reachable_judged 0 0
  refine ⟨s, h, ?_⟩
  simp [e, validatePacket, Status.judged]

/-- A MSG header with its own sum, which is not zero, is accepted with the comparison. -/
theorem witness_OkMeansThePolicyAccepts_checked :
    ∃ s, Reachable s ∧ s.status.ok = true ∧ s.status.unck = false := by
  let p : Packet := ⟨⟨Config.scpVersion, 0x10, 0, 0, 0, 0, 0⟩, []⟩
  obtain ⟨s, h, e⟩ := reachable_judged 0x10 (checksumOf p)
  have hne : checksumOf p ≠ 0x0000#16 := fun hz => by
    have h₁ : (checksumOf p).toNat = 0 := congrArg BitVec.toNat hz
    have := Config.scpVersion.isLt
    simp [checksumOf_toNat, p, total32, total16] at h₁
    omega
  refine ⟨s, h, ?_⟩
  have hv : validatePacket Config.scpVersion ⟨⟨Config.scpVersion, 0x10, 0, 0, 0, 0, checksumOf p⟩, []⟩ =
      .acceptChecked := by
    rw [validatePacket, if_neg (fun h => h rfl), if_neg hne, if_neg (fun h => h rfl)]
  rw [e, hv]
  exact ⟨rfl, rfl⟩

/-- For each clause of R42 that has a condition: a frame and no packet; both acceptances. -/
theorem witness_ReachableStatesMeetR42 :
    (∃ s, Reachable s ∧ s.status.txv = true ∧ s.status.rxv = false) ∧
    (∃ s, Reachable s ∧ s.status.ok = true ∧ s.status.unck = true) ∧
    ∃ s, Reachable s ∧ s.status.ok = true ∧ s.status.unck = false :=
  ⟨⟨_, .next (.start [.wr .cmd 0x01]) rfl, rfl, rfl⟩, witness_OkMeansThePolicyAccepts,
    witness_OkMeansThePolicyAccepts_checked⟩

theorem witness_StepPerformsTheNextEvent : (facing .hardReset).pending = .hardReset :: [] := rfl

theorem witness_StepRunsTheCommandWritten :
    (facing (.wr .cmd 0x03)).pending = [.wr .cmd 0x03] ∧ decode (.command 0x03) = .ok .validate := ⟨rfl, rfl⟩

theorem witness_StepRunsTheFrameReceived :
    (bare.withDatagram t5).pending = [.wr .cmd 0x02] ∧
      decode (.datagram (bare.withDatagram t5).datagram) = .ok (.msg hi) := ⟨rfl, by rfl⟩

theorem witness_WritingCmdRunsTheCommand :
    decode (.command 0x01) = .ok .encode ∧ (∀ i, decode (.command 0x07) ≠ .ok i) ∧
      ∃ t, perform (.wr .cmd 0x05) bare = .next t := ⟨rfl, nofun, _, rfl⟩

/-- The codes next to the legal ones, and the last. -/
theorem witness_IllegalCodeOnlySetsErr : ∀ c ∈ [0x00#8, 0x07#8, 0xFF#8], c.toNat = 0 ∨ 7 ≤ c.toNat := by decide

theorem witness_IdleBlockKeepsItsState : bare.pending = [] := rfl

theorem witness_EveryNamedAccessHasAStep :
    (Event.rdb .txp 511).named = true ∧ (Event.rdb .txp 512).named = false ∧
      (Event.wrb .rxf 523 1).named = true ∧
      (Event.wrb .rxf 524 1).named = false ∧ (Event.noBuffer 0 0).named = false := by decide

theorem witness_NoStepChangesVersion : ∃ t, step (facing (.wr .version 0x55)) = .next t := ⟨_, rfl⟩

theorem witness_OnlyReadsReturnValues :
    (∃ t, exec (.msg hi) bare = .next t) ∧ (∃ t, perform (.wr .txSeq 9) bare = .next t) ∧
      (∀ r, Event.wr .txSeq 9 ≠ .rd r) ∧ ∀ b i, Event.wr .txSeq 9 ≠ .rdb b i := ⟨⟨_, rfl⟩, ⟨_, rfl⟩, nofun, nofun⟩

theorem witness_CommandsWriteOnlyWhatIsListed :
    bare.status.rxv = false ∧ sent.frame.len.toNat ≤ 12 ∧ ∀ i, decode (.command 0xFF) ≠ .ok i :=
  ⟨rfl, by decide, nofun⟩

/-- Two states that agree on what each command reads, and differ elsewhere. -/
theorem witness_CommandsReadOnlyWhatIsListed :
    let s := { decoded t5 with frame := sent.frame, tx := (asked 0x10 0 0 1 2 [0x68, 0x69]).tx }
    let s' := { s with sum := 7, rx := { s.rx with computed := 9 }, status := { s.status with err := .notReady } }
    s ≠ s' ∧
    (∀ i ∈ [Instr.encode, .decode, .validate, .csum, .loop], goes (exec i s) = true ∧ goes (exec i s') = true) ∧
    (∀ r ∈ [Reg.version, .ctrl, .txType, .txFlags, .txRsvd, .txSeq, .txLen, .rxfLen, .txfLen, .rxVer, .rxType,
        .rxFlags, .rxRsvd, .rxSeq, .rxPlen, .rxCksum], s.readReg r = s'.readReg r) ∧
    s.status.rxv = true ∧ s.status.rxv = s'.status.rxv ∧ s.status.txv = s'.status.txv ∧ ∀ b i, s.readByte b i = s'.readByte b i := by
  exact ⟨by decide +kernel, by decide +kernel, by decide +kernel, rfl, rfl, rfl, fun b i => by cases b <;> rfl⟩

theorem witness_CommandsReadOnlyWhatIsListed_loop :
    sent.status.txv = true ∧ goes (exec .loop sent) = true ∧ goes (exec .loop { sent with sum := 7 }) = true := by
  decide

/-- An event that may change neither snapshot. -/
theorem witness_Snapshots :
    goes (perform (.wrb .rxf 12 0x00) (decoded t5)) = true ∧
      ∀ c ∈ [0x01#8, 0x02#8, 0x06#8], Event.wrb .rxf 12 0x00 ≠ .wr .cmd c ∧ Event.wrb .rxf 12 0x00 ≠ .hardReset := by
  decide

theorem witness_PackAndUnpackAreInverse : (t5.take 12).length = 12 := rfl

theorem witness_HeaderLayoutIsBigEndian : (t13.take 12).length = 12 := rfl

/-- The longest frame and the shortest. -/
theorem witness_DecodeOfEncodeIsTheInstruction :
    (Instr.msg ⟨0x01, 0, 0, 1, 512, 0, List.replicate 512 0xFF⟩).wf = true ∧
      (Instr.syn ⟨0x01, 0, 0, 1, 0, 0, []⟩).wf = true := by decide +kernel

theorem witness_EncodeOfDecodeIsTheCode :
    decode (.command 0x06) = .ok .reset ∧ decode (.datagram (t5 ++ [0xAA])) = .ok (.msg hi) := ⟨rfl, by rfl⟩

theorem witness_FramesAreTakenApart :
    hi.wf = true ∧ FrameOperands.wf ⟨0x01, 0, 0, 1, 512, 0, List.replicate 512 0xFF⟩ = true := by decide +kernel

theorem witness_EncodeProducesTheTypedFrame :
    ∀ c ∈ Config.definedTypes, (asked c 0 0 1 0 []).readReg .txType = c := by decide

theorem witness_EncodeBuildsTheFrame :
    bare.readReg .ctrl = 0x01#8 ∧ State.readReg { bare with cken := false } .ctrl ≠ 0x01#8 := by decide

/-- An empty payload, and an offer of more than 512 bytes. -/
theorem witness_EncodedFrameIsThePureFunction :
    min (0#16).toNat 512 ≤ ([] : List Byte).length ∧ min (513#16).toNat 512 ≤ (List.replicate 512 0#8).length := by
  decide +kernel

/-- A frame of exactly `RXF_LEN` bytes, one with a byte more, a bare header; then DV3, DV4 and DV6. -/
theorem witness_DecodeUnpacksTheFrame :
    (∀ bs ∈ [t5, t5 ++ [0xAA], [0x01, 0x01, 0, 0, 0, 0, 0, 0x01, 0, 0, 0, 0x03]],
      let s := loaded bs
      12 ≤ (s.readReg .rxfLen).toNat ∧
        12 + (be16 (s.readByte .rxf 8) (s.readByte .rxf 9)).toNat ≤ (s.readReg .rxfLen).toNat) ∧
    ∀ bs ∈ [t5.take 11, [], t5.take 13],
      let s := loaded bs
      (s.readReg .rxfLen).toNat < 12 ∨
        (s.readReg .rxfLen).toNat < 12 + (be16 (s.readByte .rxf 8) (s.readByte .rxf 9)).toNat := by decide

theorem witness_MalformedHasTwoCauses : ((loaded (t5.take 11)).readReg .rxfLen).toNat < 12 := by decide

/-- DV12: length 513 in a full buffer. -/
theorem witness_OverlongPayloadIsMalformed :
    let s := { bare with gram := { len := 524, rxf := [(8, 0x02), (9, 0x01)] } }
    (s.readReg .rxfLen).toNat ≤ 524 ∧ 512 < (be16 (s.readByte .rxf 8) (s.readByte .rxf 9)).toNat := by decide

theorem witness_TrailingBytesAreIgnored :
    let s := loaded t5
    let g := (loaded (t5 ++ [0xAA])).gram
    let k := 12 + (be16 (s.readByte .rxf 8) (s.readByte .rxf 9)).toNat
    k ≤ s.gram.len.toNat ∧ k ≤ g.len.toNat ∧ (∀ i, i < k → g.rxf.read i = s.readByte .rxf i) := by decide

theorem witness_DecodeOfEncodeIsThePacket :
    (t5.take 11).length < 12 ∧ (t5.take 13).length < 12 + (unpackHeader (t5.take 13)).payloadLength.toNat ∧
      12 + (unpackHeader t5).payloadLength.toNat ≤ t5.length ∧ min (2#16).toNat 512 ≤ [0x68#8, 0x69#8].length ∧
      ∃ q, decodePacket t5 = .ok q ∧ t5.length = 12 + q.header.payloadLength.toNat :=
  ⟨by decide, by decide, by decide, by decide, _, rfl, rfl⟩

theorem witness_ByteSumForms :
    [0x02#8, 0x01#8].Perm [0x01#8, 0x02#8] ∧ 16 ≤ 18 ∧ (List.replicate 524 0xFF#8).length ≤ 524 :=
  ⟨.swap _ _ _, by decide, by decide +kernel⟩

theorem witness_ByteSumLaws :
    [0x02#8, 0x01#8].Perm [0x01#8, 0x02#8] ∧ (0x00#8 ≠ 0xFF#8) ∧
      (0x68#8).toNat + (0x69#8).toNat = (0x67#8).toNat + (0x6A#8).toNat := by
  exact ⟨.swap _ _ _, by decide, by decide⟩

theorem witness_FrameSumForms :
    12 ≤ (t5.take 12).length ∧ bare.readReg .ctrl = 0x01#8 ∧ (decoded t5).status.rxv = true := by decide

/-- Every length that `RXF_LEN` can have, 257, 258 and 524 of R110 among them. -/
theorem witness_CsumWraps :
    ∀ n, n < 1024 → let s := loaded (List.replicate n 0xFF#8)
      (s.readReg .rxfLen).toNat = n ∧ ∀ i, i < n → s.readByte .rxf i = 0xFF#8 := by
  intro n hn
  refine ⟨?_, fun i hi => ?_⟩
  · simp only [State.readReg, loaded, List.length_replicate, BitVec.toNat_ofNat]
    exact Nat.mod_eq_of_lt hn
  · simp [State.readByte, State.buf, loaded, hi]

/-- V17, then V7, V2, V3, V1: no packet, and the four verdicts. -/
theorem witness_ValidateJudgesThePacket :
    let s (v c b : Byte) : State := decoded [v, 0x10, 0, 0, 0, 0, 0, 0x01, 0, 0x02, 0, c, b, 0x69]
    bare.status.rxv = false ∧
    (∀ t ∈ [s 2 0xE6 0x68, s 1 0 0x68, s 1 0xE5 0x69, s 1 0xE5 0x68], t.status.rxv = true) ∧
    (s 2 0xE6 0x68).readReg .rxVer ≠ (s 2 0xE6 0x68).readReg .version ∧
    (s 1 0 0x68).readReg .rxVer = (s 1 0 0x68).readReg .version ∧ (s 1 0 0x68).readReg .rxCksum = 0x0000#16 ∧
    (s 1 0xE5 0x69).readReg .rxCksum ≠ 0x0000#16 ∧
    (s 1 0xE5 0x69).readReg .rxCksum ≠ checksumOf (s 1 0xE5 0x69).heldPacket ∧
    (s 1 0xE5 0x68).readReg .rxCksum = checksumOf (s 1 0xE5 0x68).heldPacket := by
  decide +kernel

theorem witness_ValidateSumsTheFrameDecoded :
    12 + (be16 ((loaded t5).readByte .rxf 8) ((loaded t5).readByte .rxf 9)).toNat ≤ (loaded t5).gram.len.toNat := by
  decide

/-- A packet for each clause of the policy, and an encoder's input. -/
theorem witness_PolicyOnEncodedFrames :
    let p (c : Half) (b : Byte) : Packet := ⟨⟨0x01, 0x10, 0, 0, 1, 2, c⟩, [b, 0x69]⟩
    (p 0xE5 0x68).header.version ≠ 0x02 ∧ (p 0 0x68).header.checksum = 0x0000#16 ∧
      (p 0xE5 0x68).header.checksum = checksumOf (p 0xE5 0x68) ∧
      (p 0xE5 0x69).header.checksum ≠ checksumOf (p 0xE5 0x69) ∧
      min (2#16).toNat 512 ≤ [0x68#8, 0x69#8].length ∧ 0x02#8 ≠ 0x01#8 := by decide

/-- T5 with its last payload byte, its version, or a checksum byte changed; and V2, where the low checksum byte has
become zero and the corruption passes. -/
theorem witness_OneCorruptedByteIsDetected :
    (∃ q, decodePacket t5 = .ok q ∧ validatePacket 0x01 q = .acceptChecked ∧
      ∀ k ∈ [0, 10, 11, 13], k < 12 + q.header.payloadLength.toNat ∧ k ≠ 8 ∧ k ≠ 9 ∧ byteAt t5 k ≠ 0xAA) ∧
    byteAt t5 11 ≠ 0x00 ∧
    ∃ q', decodePacket (t5.set 11 0x00) = .ok q' ∧ q'.header.checksum = 0x0000#16 ∧
      validatePacket 0x01 q' = .acceptUnchecked :=
  ⟨⟨_, rfl, by decide +kernel, by decide +kernel⟩, by decide, _, rfl, by decide, by decide +kernel⟩

theorem witness_LoopCopiesTheFrame : sent.status.txv = true ∧ bare.status.txv = false := ⟨rfl, rfl⟩

theorem witness_ReadsReturnTheValue : 523 < Buf.rxf.size ∧ 511 < Buf.rxp.size := by decide

theorem witness_ReadOnlyWritesAreIgnored : 511 < Buf.rxp.size ∧ 523 < Buf.txf.size := by decide

theorem witness_BufferWritesStoreOneByte :
    Buf.txp.writable = true ∧ 511 < Buf.txp.size ∧ Buf.rxf.writable = true ∧ 523 < Buf.rxf.size := by decide

/-- The first number, id and index of each kind that names nothing. -/
theorem witness_MissingLocationsAreRefused : 20 < 21 ∧ 3 < 4 ∧ 512 ≤ 512 ∧ 524 ≤ 524 := by decide

theorem witness_OnlyCommandsChangeStatus :
    goes (perform (.wr .status 0xFFFF) bare) = true ∧ Event.wr .status 0xFFFF ≠ .hardReset ∧
      ∀ c, Event.wr .status 0xFFFF ≠ .wr .cmd c := ⟨rfl, nofun, nofun⟩

theorem witness_WritesAreIdempotent : Reg.rxfLen ≠ .cmd ∧ 523 < Buf.rxf.size := by decide

end Sys2Proof.Tests
end

/-! PROOFS of the family 10_state.md: the invariant of R42 (`State.Inv`) holds after reset and every event keeps it, so
it holds in every reachable state; and what a reset leaves (R41). -/

namespace Sys2Proof.Machine

/-! ### The result of ENCODE -/

/-- The packet that ENCODE puts on the wire (R89, R96). -/
def State.packetToSend (s : State) : Packet :=
  encodePacket s.version s.cken s.tx.typ s.tx.flags s.tx.rsvd s.tx.seq s.tx.len (s.tx.txp.bytes (payloadCount s.tx.len))

/-- The state after ENCODE (R89). -/
def State.sendPacket (s : State) : State :=
  { s with
    frame :=
      { cksum := s.packetToSend.header.checksum, len := BitVec.ofNat 10 (12 + payloadCount s.tx.len),
        txf := Memory.ofBytes s.packetToSend.bytes }
    status := s.status.encoded }

theorem exec_encode (s : State) : exec .encode s = .next s.sendPacket := rfl

@[simp] theorem State.packetToSend_version (s : State) : s.packetToSend.header.version = s.version := rfl

@[simp] theorem State.packetToSend_plen (s : State) :
    s.packetToSend.header.payloadLength.toNat = payloadCount s.tx.len := encodePacket_plen ..

@[simp] theorem State.packetToSend_payload_length (s : State) :
    s.packetToSend.payload.length = payloadCount s.tx.len := by
  simp [State.packetToSend]

@[simp] theorem State.sendPacket_version (s : State) : s.sendPacket.version = s.version := rfl
@[simp] theorem State.sendPacket_status (s : State) : s.sendPacket.status = s.status.encoded := rfl
@[simp] theorem State.sendPacket_cksum (s : State) :
    s.sendPacket.frame.cksum = s.packetToSend.header.checksum := rfl
@[simp] theorem State.sendPacket_txf (s : State) :
    s.sendPacket.frame.txf = Memory.ofBytes s.packetToSend.bytes := rfl

/-- `TXF_LEN` holds the frame's length without loss: at most 524 (R28). -/
@[simp] theorem State.sendPacket_len (s : State) :
    s.sendPacket.frame.len.toNat = 12 + payloadCount s.tx.len := by
  have := payloadCount_le s.tx.len
  simp only [State.sendPacket, BitVec.toNat_ofNat]
  omega

/-! ### The header bytes of a packet, as a buffer holds them -/

theorem read_ofBytes_version (p : Packet) : (Memory.ofBytes p.bytes).read 0 = p.header.version := by
  rw [Memory.read_ofBytes]; rfl

theorem read_ofBytes_plen (p : Packet) :
    be16 ((Memory.ofBytes p.bytes).read 8) ((Memory.ofBytes p.bytes).read 9) = p.header.payloadLength := by
  rw [Memory.read_ofBytes, Memory.read_ofBytes]; exact be16_byteOf _

theorem read_ofBytes_cksum (p : Packet) :
    be16 ((Memory.ofBytes p.bytes).read 10) ((Memory.ofBytes p.bytes).read 11) = p.header.checksum := by
  rw [Memory.read_ofBytes, Memory.read_ofBytes]; exact be16_byteOf _

theorem read_ofBytes_end {bs : List Byte} {i : Nat} (h : bs.length ≤ i) : (Memory.ofBytes bs).read i = 0x00#8 := by
  simp [List.getElem?_eq_none h]

/-! ### Updates of one buffer -/

section
variable {s t : State} {b : Buf} {m : Memory} (h : ∀ c, t.buf c = if c = b then m else s.buf c)
include h

theorem State.Inv.buf_wf_of_replaced (hi : s.Inv) (hm : m.wf) (c : Buf) : (t.buf c).wf := by
  rw [h]
  split
  · exact hm
  · exact hi.buf_wf c

theorem State.Inv.buf_within_of_replaced (hi : s.Inv) (hm : m.within b.size) (c : Buf) :
    (t.buf c).within c.size := by
  rw [h]
  split
  · next hc => exact hc ▸ hm
  · exact hi.buf_within c

end

theorem State.buf_sendPacket (s : State) (c : Buf) :
    s.sendPacket.buf c = if c = .txf then Memory.ofBytes s.packetToSend.bytes else s.buf c := by
  cases c <;> rfl

theorem State.buf_holdPacket (s : State) (p : Packet) (c : Buf) :
    (s.holdPacket p).buf c = if c = .rxp then Memory.ofBytes p.payload else s.buf c := by
  cases c <;> rfl

theorem State.buf_dropPacket (s : State) (c : Buf) : s.dropPacket.buf c = if c = .rxp then [] else s.buf c := by
  cases c <;> rfl

theorem State.buf_setGram (s : State) (g : RxGram) (c : Buf) :
    State.buf { s with gram := g } c = if c = .rxf then g.rxf else s.buf c := by
  cases c <;> rfl

theorem State.buf_writeByte (s : State) {b : Buf} (hb : b.writable = true) (i : Nat) (v : Byte) (c : Buf) :
    (s.writeByte b i v).buf c = if c = b then (s.buf b).write i v else s.buf c := by
  cases b with
  | txf | rxp => cases hb
  | txp | rxf => cases c <;> rfl

theorem State.writeByte_readOnly (s : State) {b : Buf} (hb : b.writable = false) (i : Nat) (v : Byte) :
    s.writeByte b i v = s := by
  cases b with
  | txf | rxp => rfl
  | txp | rxf => cases hb

/-! ### The invariant after reset -/

/-- Whatever the state before, a reset leaves one that meets the invariant. -/
theorem State.inv_resetBlock (s : State) : s.resetBlock.Inv where
  buf_wf b := by cases b <;> exact Memory.wf_nil
  buf_within b := by cases b <;> exact nofun
  txf_len := .inl rfl
  txv_iff := iff_of_true rfl rfl
  no_frame _ := rfl
  frame_version := nofun
  frame_plen := nofun
  frame_cksum := nofun
  frame_end _ _ := rfl
  rxf_len := Nat.zero_le _
  rx_plen := Nat.zero_le _
  rxp_end _ _ := rfl
  no_packet _ := ⟨rfl, rfl, rfl, rfl⟩
  tunk_iff := nofun
  unck_ok := nofun
  ok_version := nofun
  ok_verdict := nofun

/-- The reset state meets the invariant, whatever the host is going to do. -/
theorem State.inv_reset (es : List Event) : State.Inv { State.reset with pending := es } :=
  State.inv_resetBlock { State.reset with pending := es }

/-! ### Updates of fields that the invariant does not speak of -/

theorem State.Inv.taken {s : State} (hi : s.Inv) (es : List Event) : (s.taken es).Inv := { hi with }

theorem State.Inv.give {s : State} (hi : s.Inv) (a : Answer) : (s.give a).Inv := { hi with }

theorem State.Inv.raise {s : State} (hi : s.Inv) (e : ErrorCode) : (s.raise e).Inv := { hi with }

theorem State.Inv.csum {s t : State} (hi : s.Inv) (h : exec .csum s = .next t) : t.Inv := by
  rw [exec_csum] at h
  cases h
  exact { hi with }

/-! ### Host writes -/

theorem saturateLen_toNat (v : Len) : (saturateLen v).toNat = min v.toNat 524 := by
  simp only [saturateLen, BitVec.toNat_ofNat, Config.maxFrame]
  omega

/-- Of the registers that the host writes only `RXF_LEN` has a bound, and it saturates (R48). -/
theorem State.Inv.writeReg {s : State} (hi : s.Inv) (r : Reg) (v : BitVec r.width) : (s.writeReg r v).Inv := by
  cases r with
  | rxfLen =>
    have hlen : (saturateLen v).toNat ≤ 524 := by rw [saturateLen_toNat]; omega
    exact { hi with rxf_len := hlen }
  | _ => exact { hi with }

/-- A byte within the buffer is stored, or ignored by a read-only buffer (R47, R49). -/
theorem State.Inv.writeByte {s : State} (hi : s.Inv) {b : Buf} {i : Nat} (h : i < b.size) (v : Byte) :
    (s.writeByte b i v).Inv := by
  cases hb : b.writable with
  | false => rwa [State.writeByte_readOnly s hb]
  | true =>
    have hwf := hi.buf_wf_of_replaced (s.buf_writeByte hb i v) (Memory.wf_write (hi.buf_wf b) i v)
    have hwithin :=
      hi.buf_within_of_replaced (s.buf_writeByte hb i v) (Memory.within_write (hi.buf_within b) h v)
    cases b <;> exact { hi with buf_wf := hwf, buf_within := hwithin }

/-! ### ENCODE and LOOP -/

/-- ENCODE establishes the clauses on the frame, whatever the state before. -/
theorem State.Inv.sendPacket {s : State} (hi : s.Inv) : s.sendPacket.Inv :=
  have hn := payloadCount_le s.tx.len
  { hi with
    buf_wf := hi.buf_wf_of_replaced s.buf_sendPacket (Memory.wf_ofBytes _)
    buf_within := hi.buf_within_of_replaced s.buf_sendPacket (Memory.within_ofBytes (by simp [Buf.size]; omega))
    txf_len := .inr (by rw [State.sendPacket_len]; omega)
    txv_iff := by simp [← BitVec.toNat_inj]
    no_frame := nofun
    frame_version _ := read_ofBytes_version _
    frame_plen _ := by
      rw [State.sendPacket_txf, read_ofBytes_plen, State.packetToSend_plen, State.sendPacket_len]
      omega
    frame_cksum _ := read_ofBytes_cksum _
    frame_end _ h := read_ofBytes_end (by simpa using h) }

theorem State.Inv.frame_len_le {s : State} (hi : s.Inv) : s.frame.len.toNat ≤ 524 := by
  obtain h | ⟨-, h⟩ := hi.txf_len
  · simp [h]
  · exact h

theorem State.encodedFrame_length (s : State) : s.encodedFrame.length = s.frame.len.toNat := Memory.bytes_length ..

/-- LOOP copies at most 524 bytes into `RXF`, as the frame that `TXF` holds is no longer. -/
theorem State.Inv.loop {s t : State} (hi : s.Inv) (h : exec .loop s = .next t) : t.Inv := by
  have hlen := hi.frame_len_le
  cases hv : s.status.txv with
  | false =>
    rw [exec_loop_notReady hv] at h
    cases h
    exact hi.raise _
  | true =>
    rw [exec_loop_ready hv] at h
    cases h
    have hi := hi.raise .none
    exact
      { hi with
        buf_wf := hi.buf_wf_of_replaced (State.buf_setGram _ _) (Memory.wf_writeBytes (hi.buf_wf .rxf) 0 _)
        buf_within :=
          hi.buf_within_of_replaced (State.buf_setGram _ _)
            (Memory.within_writeBytes (hi.buf_within .rxf) (by simpa [State.encodedFrame_length, Buf.size] using hlen))
        rxf_len := hlen }

/-! ### DECODE and VALIDATE -/

/-- Holding a packet keeps the invariant when its payload is as long as its length field says and fits `RXP`. -/
theorem State.Inv.holdPacket {s : State} (hi : s.Inv) {p : Packet}
    (hlen : p.payload.length = p.header.payloadLength.toNat) (hmax : p.header.payloadLength.toNat ≤ 512) :
    (s.holdPacket p).Inv :=
  { hi with
    buf_wf := hi.buf_wf_of_replaced (s.buf_holdPacket p) (Memory.wf_ofBytes _)
    buf_within := hi.buf_within_of_replaced (s.buf_holdPacket p) (Memory.within_ofBytes (hlen ▸ hmax))
    rx_plen := hmax
    rxp_end _ h := read_ofBytes_end (hlen.symm ▸ h)
    no_packet := nofun
    tunk_iff _ := rfl
    unck_ok := nofun
    ok_version := nofun
    ok_verdict := nofun }

theorem State.Inv.dropPacket {s : State} (hi : s.Inv) : s.dropPacket.Inv :=
  { hi with
    buf_wf := hi.buf_wf_of_replaced s.buf_dropPacket Memory.wf_nil
    buf_within := hi.buf_within_of_replaced s.buf_dropPacket nofun
    rx_plen := Nat.zero_le _
    rxp_end _ _ := rfl
    no_packet _ := ⟨rfl, rfl, rfl, rfl⟩
    tunk_iff := nofun
    unck_ok := nofun
    ok_version := nofun
    ok_verdict := nofun }

/-- DECODE of at most 524 bytes: what it holds has at most 512 bytes of payload (R100). -/
theorem State.Inv.receive {s : State} (hi : s.Inv) {bs : List Byte} (hbs : bs.length ≤ 524) : (s.receive bs).Inv := by
  obtain ⟨p, hp, h⟩ | ⟨-, -, h⟩ := s.receive_cases bs
  · rw [h]
    have hlen := decodePacket_payload_length hp
    obtain ⟨hfit, rfl⟩ := decodePacket_eq_ok.1 hp
    exact hi.holdPacket hlen (by simp only; omega)
  · rw [h]
    exact hi.dropPacket

/-- What acceptance means: the version is the right one; the checksum field is zero, or it is the sum (R122). -/
theorem validatePacket_accepts {version : Byte} {p : Packet}
    (h : validatePacket version p = .acceptChecked ∨ validatePacket version p = .acceptUnchecked) :
    p.header.version = version ∧
      (validatePacket version p = .acceptUnchecked ↔ p.header.checksum = 0x0000#16) ∧
      (validatePacket version p ≠ .acceptUnchecked → p.header.checksum = checksumOf p) := by
  unfold validatePacket at h ⊢
  by_cases hv : p.header.version = version
  · by_cases hz : p.header.checksum = 0x0000#16
    · simp [hv, hz]
    · by_cases hs : p.header.checksum = checksumOf p
      · simp [hv, hs, hs ▸ hz]
      · simp [hv, hz, hs] at h
  · simp [hv] at h

theorem State.Inv.validate {s t : State} (hi : s.Inv) (h : exec .validate s = .next t) : t.Inv := by
  cases hv : s.status.rxv with
  | false =>
    rw [exec_validate_none hv] at h
    cases h
    obtain ⟨hrx, -, -, htunk⟩ := hi.no_packet hv
    exact
      { hi with
        no_packet _ := ⟨hrx, rfl, rfl, htunk⟩
        unck_ok := nofun
        ok_version := nofun
        ok_verdict := nofun }
  | true =>
    rw [exec_validate_held hv] at h
    cases h
    exact
      { hi with
        buf_wf := hi.buf_wf
        buf_within := hi.buf_within
        txv_iff := by simpa using hi.txv_iff
        no_frame := by simpa using hi.no_frame
        frame_version := by simpa using hi.frame_version
        frame_plen := by simpa using hi.frame_plen
        frame_cksum := by simpa using hi.frame_cksum
        no_packet := by simp [hv]
        tunk_iff _ := by simpa using hi.tunk_iff hv
        unck_ok h := (Status.judged_ok ..).2 (.inr ((Status.judged_unck ..).1 h))
        ok_version h := ⟨(Status.judged_rxv ..).trans hv, (validatePacket_accepts ((Status.judged_ok ..).1 h)).1⟩
        ok_verdict h := by
          obtain ⟨-, hzero, hsum⟩ := validatePacket_accepts ((Status.judged_ok ..).1 h)
          refine ⟨rfl, (Status.judged_unck ..).trans hzero, fun hu => hsum fun ha => ?_⟩
          simp [(Status.judged_unck ..).2 ha] at hu }

/-! ### Every event and every step -/

theorem State.Inv.command {s t : State} {c : Byte} {i : Instr} (hi : s.Inv) (hc : decode (.command c) = .ok i)
    (h : exec i s = .next t) : t.Inv := by
  obtain ⟨-, rfl⟩ | ⟨-, rfl⟩ | ⟨-, rfl⟩ | ⟨-, rfl⟩ | ⟨-, rfl⟩ | ⟨-, rfl⟩ := decode_command_cases hc
  · rw [exec_encode] at h
    cases h
    exact hi.sendPacket
  · cases h
    exact hi.receive (s.datagram_length ▸ hi.rxf_len)
  · exact hi.validate h
  · exact hi.csum h
  · exact hi.loop h
  · rw [exec_reset] at h
    cases h
    exact s.inv_resetBlock

/-- Every event keeps the invariant. -/
theorem State.Inv.perform {s t : State} {e : Event} (hi : s.Inv) (h : perform e s = .next t) : t.Inv := by
  obtain ⟨r, -, rfl⟩ | ⟨b, i, -, -, rfl⟩ | ⟨r, v, -, -, rfl⟩ | ⟨b, i, v, -, hb, rfl⟩ | ⟨c, i, -, hc, ht⟩ |
    ⟨-, -, -, -, rfl⟩ | ⟨-, rfl⟩ := perform_cases h
  · exact hi.give _
  · exact hi.give _
  · exact hi.writeReg r v
  · exact hi.writeByte hb v
  · exact hi.command hc ht
  · exact hi.raise _
  · exact s.inv_resetBlock

/-- Every step keeps the invariant. -/
theorem State.Inv.step {s t : State} (hi : s.Inv) (h : step s = .next t) : t.Inv := by
  obtain ⟨-, rfl⟩ | ⟨e, rest, -, he⟩ := step_cases h
  · exact hi
  · exact (hi.taken rest).perform he

/-! ### `VERSION` never changes (R16) -/

@[simp] theorem State.receive_version (s : State) (bs : List Byte) : (s.receive bs).version = s.version := by
  obtain ⟨p, -, h⟩ | ⟨-, -, h⟩ := s.receive_cases bs <;> rw [h]
  · exact s.holdPacket_version p
  · exact s.dropPacket_version

theorem exec_version {i : Instr} {s t : State} (h : exec i s = .next t) : t.version = s.version := by
  cases i with
  | loop =>
    cases hv : s.status.txv with
    | false => rw [exec_loop_notReady hv] at h; cases h; rfl
    | true => rw [exec_loop_ready hv] at h; cases h; rfl
  | validate =>
    cases hv : s.status.rxv with
    | false => rw [exec_validate_none hv] at h; cases h; rfl
    | true => rw [exec_validate_held hv] at h; cases h; rfl
  | encode | csum | reset => cases h; rfl
  | _ => cases h; exact s.receive_version _

theorem perform_version {e : Event} {s t : State} (h : perform e s = .next t) : t.version = s.version := by
  obtain ⟨-, -, rfl⟩ | ⟨-, -, -, -, rfl⟩ | ⟨r, v, -, -, rfl⟩ | ⟨b, i, v, -, -, rfl⟩ | ⟨c, i, -, -, ht⟩ |
    ⟨-, -, -, -, rfl⟩ | ⟨-, rfl⟩ := perform_cases h
  · rfl
  · rfl
  · exact s.writeReg_version r v
  · exact s.writeByte_version b i v
  · exact exec_version ht
  · rfl
  · rfl

theorem step_version {s t : State} (h : step s = .next t) : t.version = s.version := by
  obtain ⟨-, rfl⟩ | ⟨e, rest, -, he⟩ := step_cases h
  · rfl
  · exact (perform_version he).trans (s.taken_version rest)

/-! ### Reachable states -/

theorem Reachable.inv {s : State} (h : Reachable s) : s.Inv := by
  induction h with
  | start es => exact State.inv_reset es
  | next _ hst ih => exact ih.step hst

theorem Reachable.version {s : State} (h : Reachable s) : s.version = Config.scpVersion := by
  induction h with
  | start es => rfl
  | next _ hst ih => exact (step_version hst).trans ih

/-! ### The unimplemented bits of `STATUS` and its `ERR` field (R19, R25) -/

theorem Status.word_upper_fields (f : Status) :
    f.word.extractLsb' 5 3 = 0#3 ∧ f.word.extractLsb' 11 5 = 0#5 ∧ f.word.extractLsb' 8 3 = f.err.code := by
  refine ⟨?_, ?_, ?_⟩ <;>
  · apply BitVec.eq_of_getLsbD_eq
    intro i hi
    simp only [Status.word, BitVec.getLsbD_append, BitVec.getLsbD_extractLsb']
    grind

theorem ErrorCode.code_le (e : ErrorCode) : e.code.toNat ≤ 5 := by cases e <;> decide

/-! ### What the host reads after a reset (R41) -/

theorem State.atReset_resetBlock (s : State) : s.resetBlock.AtReset := by
  refine ⟨(by decide : 0#7 ++ BitVec.ofBool true = 0x01#8), fun r hctrl hversion => ?_, fun b i => ?_⟩
  · cases r with
    | ctrl => exact absurd rfl hctrl
    | version => exact absurd rfl hversion
    | status => exact (by decide : Status.reset.word = 0x0000#16)
    | _ => rfl
  · cases b <;> rfl

theorem readReg_packetRegs {s : State} (h : s.rx = RxPacket.reset) : ∀ r ∈ packetRegs, s.readReg r = 0#r.width := by
  simp [packetRegs, State.readReg, h, RxPacket.reset]

/-! ### The statements -/

/-- Settles O6: R42 read off the invariant, which every reachable state meets. -/
theorem reachableStatesMeetR42 : Obligations.ReachableStatesMeetR42 := by
  intro s h
  have hi := h.inv
  have hv := h.version
  obtain ⟨hbits5, hbits11, herr⟩ := s.status.word_upper_fields
  refine ⟨?_, ?_, hi.rxf_len, hi.rx_plen, fun hr => ?_, hi.unck_ok, fun ho => ?_, fun ht => ?_,
    hbits5, hbits11, ?_⟩
  · exact hi.txf_len.imp_left (congrArg BitVec.toNat)
  · exact hi.txv_iff.trans BitVec.toNat_inj.symm
  · obtain ⟨hrx, hflags⟩ := hi.no_packet hr
    exact ⟨readReg_packetRegs hrx, fun i => by simp [State.readByte, State.buf, hrx, RxPacket.reset], hflags⟩
  · exact (hi.ok_version ho).imp_right (·.trans hv)
  · exact ⟨(hi.frame_version ht).trans hv, hi.frame_plen ht, hi.frame_cksum ht⟩
  · exact herr ▸ s.status.err.code_le

/-- Settles O1: both resets are `State.resetBlock`, which also maps the reset state to itself. -/
theorem resetStateAndResetCommand : Obligations.ResetStateAndResetCommand :=
  ⟨State.reset.atReset_resetBlock, rfl, rfl, fun s =>
    ⟨s.resetBlock, exec_reset s, rfl, s.atReset_resetBlock, s.resetBlock_version⟩⟩

end Sys2Proof.Machine

/-! PROOFS of the family 20_memory.md: a `WR` changes the register it names and nothing else, a read-only location
ignores it, and `CMD` runs a command and stores nothing (R48, R49, R51). -/

namespace Sys2Proof.Machine

/-- The registers that store every value written to them (R48); `CTRL` and `RXF_LEN` store a part of it. -/
def txInputRegs : List Reg := [.txType, .txFlags, .txRsvd, .txSeq, .txLen]

/-- The registers that ignore a write (R49). -/
def readOnlyRegs : List Reg :=
  [.version, .status, .txCksum, .txfLen, .rxVer, .rxType, .rxFlags, .rxRsvd, .rxSeq, .rxPlen, .rxCksum, .rxCalc, .sum]

/-! ### What a register reads after a write to it -/

theorem State.readReg_cmd (s : State) : s.readReg .cmd = 0x00#8 := rfl

theorem State.readReg_writeReg_txInput (s : State) {r : Reg} (hr : r ∈ txInputRegs) (v : BitVec r.width) :
    (s.writeReg r v).readReg r = v := by
  cases r with
  | txType | txFlags | txRsvd | txSeq | txLen => rfl
  | _ => exact absurd hr (by decide)

/-- `CTRL` has one implemented bit, bit 0 (R17). -/
theorem State.readReg_writeReg_ctrl (s : State) (v : Byte) : (s.writeReg .ctrl v).readReg .ctrl = v &&& 0x01#8 :=
  (by decide : ∀ v : Byte, 0#7 ++ BitVec.ofBool (v.getLsbD 0) = v &&& 0x01#8) v

theorem State.readReg_writeReg_rxfLen (s : State) (v : Len) :
    BitVec.toNat ((s.writeReg .rxfLen v).readReg .rxfLen) = min v.toNat 524 := saturateLen_toNat v

/-! ### What a write leaves unchanged -/

theorem State.readReg_writeReg_of_ne (s : State) {q r : Reg} (h : q ≠ r) (v : BitVec r.width) :
    (s.writeReg r v).readReg q = s.readReg q := by
  cases q with
  | ctrl | txType | txFlags | txRsvd | txSeq | txLen | rxfLen => cases r <;> first | exact absurd rfl h | rfl
  | cmd => rfl
  | version => exact s.writeReg_version r v
  | status => exact congrArg Status.word (s.writeReg_status r v)
  | sum => exact s.writeReg_sum r v
  | txCksum | txfLen => simp only [State.readReg, State.writeReg_frame]
  | _ => simp only [State.readReg, State.writeReg_rx]

theorem State.buf_writeReg (s : State) (r : Reg) (v : BitVec r.width) (b : Buf) :
    (s.writeReg r v).buf b = s.buf b := by
  cases b with
  | txp => exact s.writeReg_txp r v
  | txf => exact congrArg TxFrame.txf (s.writeReg_frame r v)
  | rxf => exact s.writeReg_rxf r v
  | rxp => exact congrArg RxPacket.rxp (s.writeReg_rx r v)

theorem State.readByte_writeReg (s : State) (r : Reg) (v : BitVec r.width) (b : Buf) (i : Nat) :
    (s.writeReg r v).readByte b i = s.readByte b i := by
  simp only [State.readByte, State.buf_writeReg]

theorem State.sameExcept_writeReg (s : State) (r : Reg) (v : BitVec r.width) :
    SameExcept [r] [] s (s.writeReg r v) :=
  ⟨fun _ hq => s.readReg_writeReg_of_ne (mt List.mem_singleton.2 hq) v, fun b _ i => s.readByte_writeReg r v b i⟩

theorem State.sameExcept_give (s : State) (a : Answer) : SameExcept [] [] s (s.give a) :=
  ⟨fun r _ => s.give_readReg a r, fun b _ i => s.give_readByte a b i⟩

/-! ### Writes that are ignored -/

theorem State.writeReg_readOnly (s : State) {r : Reg} (hr : r ∈ readOnlyRegs) (v : BitVec r.width) :
    s.writeReg r v = s := by
  cases r with
  | ctrl | cmd | txType | txFlags | txRsvd | txSeq | txLen | rxfLen => exact absurd hr (by decide)
  | _ => rfl

theorem perform_wr_readOnly {r : Reg} (hr : r ∈ readOnlyRegs) (v : BitVec r.width) (s : State) :
    perform (.wr r v) s = .next s := by
  have hcmd : r ≠ .cmd := ne_of_mem_of_not_mem hr (by decide)
  rw [perform_wr hcmd, s.writeReg_readOnly hr]

theorem perform_wrb {b : Buf} {i : Nat} (h : i < b.size) (v : Byte) (s : State) :
    perform (.wrb b i v) s = .next (s.writeByte b i v) := if_pos h

/-! ### Illegal command codes -/

theorem runCommand_illegal {c : Byte} (h : ∀ i, decode (.command c) ≠ .ok i) (s : State) :
    runCommand c s = .next (s.raise .illegalCommand) := by
  unfold runCommand
  split
  · next i hi => exact absurd hi (h i)
  · rfl

/-! ### The statements -/

/-- Settles O52: the register named reads what it stored, and the frame of `State.writeReg` is that register. -/
theorem registerWritesStore : Obligations.RegisterWritesStore := by
  intro s
  refine ⟨fun r hr v => ?_, fun v => ?_, fun v => ?_⟩
  · have hcmd : r ≠ .cmd := ne_of_mem_of_not_mem hr (by decide)
    exact ⟨_, perform_wr hcmd v s, s.readReg_writeReg_txInput hr v, s.sameExcept_writeReg r v⟩
  · exact ⟨_, perform_wr (r := .ctrl) nofun v s, s.readReg_writeReg_ctrl v, s.sameExcept_writeReg .ctrl v⟩
  · exact ⟨_, perform_wr (r := .rxfLen) nofun v s, s.readReg_writeReg_rxfLen v, s.sameExcept_writeReg .rxfLen v⟩

/-- Settles O11: a write to `CMD` is `runCommand`, which either executes the decoded command or raises. -/
theorem writingCmdRunsTheCommand : Obligations.WritingCmdRunsTheCommand := by
  intro s c
  simp only [perform_cmd]
  exact ⟨fun i hi => runCommand_ok hi s, fun h => ⟨_, runCommand_illegal h s, rfl⟩, fun t _ => t.readReg_cmd⟩

/-- Settles O53: neither kind of write to a read-only location changes the state, and a read only adds an answer. -/
theorem readOnlyWritesAreIgnored : Obligations.ReadOnlyWritesAreIgnored := by
  intro s
  refine ⟨fun r hr v => perform_wr_readOnly hr v s, fun b hb i v hi => ?_, s.readReg_cmd,
    _, rfl, s.sameExcept_give _⟩
  have hro : b.writable = false := (by decide : ∀ b ∈ [Buf.txf, .rxp], b.writable = false) b hb
  rw [perform_wrb hi, s.writeByte_readOnly hro]

end Sys2Proof.Machine

/-! PROOFS of the family 30_encoding.md: packing and unpacking a header are inverse, each field stands at its place most
significant byte first (R66 to R68), and a byte that is no command code only sets `ERR` (R80). -/

namespace Sys2Proof

/-! ### A number from its bytes -/

theorem half_toNat_eq_bytes (v : Half) : v.toNat = (byteOf v 1).toNat * 256 + (byteOf v 0).toNat := by
  rw [← be16_toNat, be16_byteOf]

theorem word_toNat_eq_bytes (v : Word) :
    v.toNat = (byteOf v 3).toNat * 2 ^ 24 + (byteOf v 2).toNat * 2 ^ 16 + (byteOf v 1).toNat * 2 ^ 8
      + (byteOf v 0).toNat := by
  rw [← be32_toNat, be32_byteOf]

/-! ### Packing and unpacking -/

/-- Each multi-byte field is put together from the bytes it was taken apart into. -/
@[simp] theorem unpackHeader_packHeader (h : Header) : unpackHeader (packHeader h) = h := by
  simp [unpackHeader, packHeader, byteAt]

/-- Each byte of a multi-byte field is the byte it was put together from, whatever the 12 bytes are. -/
theorem packHeader_unpackHeader_eq_map (bs : List Byte) :
    packHeader (unpackHeader bs) = (List.range 12).map (byteAt bs) := by
  simp [packHeader, unpackHeader, byteOf_be32, byteOf_be16_high, byteOf_be16_low, List.range_succ]

theorem map_byteAt_range {bs : List Byte} {k : Nat} (h : k ≤ bs.length) :
    (List.range k).map (byteAt bs) = bs.take k := by
  refine List.ext_getElem (by simpa using h) fun i hi _ => ?_
  have hi : i < bs.length := by simp at hi; omega
  simp [byteAt, hi]

theorem packHeader_unpackHeader {bs : List Byte} (h : 12 ≤ bs.length) :
    packHeader (unpackHeader bs) = bs.take 12 :=
  (packHeader_unpackHeader_eq_map bs).trans (map_byteAt_range h)

/-! ### The command codes -/

theorem decode_command_isOk_iff (c : Byte) :
    (∃ i, decode (.command c) = .ok i) ↔ 1 ≤ c.toNat ∧ c.toNat ≤ 6 := by
  constructor
  · rintro ⟨i, hi⟩
    obtain ⟨rfl, -⟩ | ⟨rfl, -⟩ | ⟨rfl, -⟩ | ⟨rfl, -⟩ | ⟨rfl, -⟩ | ⟨rfl, -⟩ :=
      Machine.decode_command_cases hi <;> decide
  · intro h
    have hc : c = 0x01#8 ∨ c = 0x02#8 ∨ c = 0x03#8 ∨ c = 0x04#8 ∨ c = 0x05#8 ∨ c = 0x06#8 := by bv_omega
    obtain rfl | rfl | rfl | rfl | rfl | rfl := hc <;> exact ⟨_, rfl⟩

end Sys2Proof

namespace Sys2Proof.Machine

/-- The frame of `raise`: a command that only ends with an outcome changes `STATUS` alone (R131). -/
theorem State.sameExcept_raise (s : State) (e : ErrorCode) : SameExcept [.status] [] s (s.raise e) := by
  refine ⟨fun r hr => ?_, fun b _ i => ?_⟩
  · cases r with
    | status => exact absurd (List.mem_singleton_self _) hr
    | _ => rfl
  · cases b <;> rfl

/-! ### The statements -/

/-- Settles O12: outside 0x01 to 0x06 no command decodes, so `CMD` raises `IllegalCommand`, whose frame is `STATUS`. -/
theorem illegalCodeOnlySetsErr : Obligations.IllegalCodeOnlySetsErr := by
  refine ⟨decode_command_isOk_iff, fun s c hc => ?_⟩
  have hillegal : ∀ i, decode (.command c) ≠ .ok i := fun i hi => by
    have := (decode_command_isOk_iff c).1 ⟨i, hi⟩
    omega
  rw [perform_cmd]
  exact ⟨_, runCommand_illegal hillegal s, rfl, s.sameExcept_raise _⟩

/-- Settles O22: a header of 12 bytes is all of a sequence of 12 bytes. -/
theorem packAndUnpackAreInverse : Obligations.PackAndUnpackAreInverse :=
  ⟨fun h => ⟨packHeader_length h, unpackHeader_packHeader h⟩, fun bs hbs => by
    rw [packHeader_unpackHeader hbs.ge, List.take_of_length_le hbs.le]⟩

/-- Settles O23: a packed field is worth what its bytes are, and an unpacked one what `be16` or `be32` of its bytes is. -/
theorem headerLayoutIsBigEndian : Obligations.HeaderLayoutIsBigEndian := by
  refine ⟨fun h => ?_, fun b _ => ?_, by decide⟩
  · exact ⟨packHeader_length h, rfl, rfl, rfl, rfl, word_toNat_eq_bytes _, half_toNat_eq_bytes _,
      half_toNat_eq_bytes _⟩
  · exact ⟨rfl, rfl, rfl, rfl, be32_toNat .., be16_toNat .., be16_toNat ..⟩

end Sys2Proof.Machine

/-! PROOFS of the family 40_encode.md: the frame that ENCODE builds is `State.packetToSend`, byte by byte (R89, R93); a
payload longer than 512 bytes is cut without an indication (R91); and the frame is the pure function `Encode` of the
registers (R96). -/

namespace Sys2Proof.Machine

/-! ### The bytes of a packet, as a buffer holds them -/

theorem read_ofBytes_typ (p : Packet) : (Memory.ofBytes p.bytes).read 1 = p.header.typ := by
  rw [Memory.read_ofBytes]; rfl

theorem read_ofBytes_flags (p : Packet) : (Memory.ofBytes p.bytes).read 2 = p.header.flags := by
  rw [Memory.read_ofBytes]; rfl

theorem read_ofBytes_reserved (p : Packet) : (Memory.ofBytes p.bytes).read 3 = p.header.reserved := by
  rw [Memory.read_ofBytes]; rfl

theorem read_ofBytes_sequence (p : Packet) :
    be32 ((Memory.ofBytes p.bytes).read 4) ((Memory.ofBytes p.bytes).read 5) ((Memory.ofBytes p.bytes).read 6)
      ((Memory.ofBytes p.bytes).read 7) = p.header.sequence := by
  simp only [Memory.read_ofBytes]; exact be32_byteOf _

theorem read_ofBytes_payload (p : Packet) (i : Nat) :
    (Memory.ofBytes p.bytes).read (12 + i) = p.payload.getD i 0x00#8 := by
  rw [Memory.read_ofBytes, Packet.bytes, List.getD_append_right _ _ _ _ (by simp), packHeader_length,
    Nat.add_sub_cancel_left]

/-! ### The packet that `Encode` builds -/

/-- A number of at most 512 is its own payload count, also after it is stored in `TX_LEN`. -/
theorem payloadCount_ofNat {n : Nat} (h : n ≤ 512) : payloadCount (BitVec.ofNat 16 n) = n := by
  rw [payloadCount_eq, BitVec.toNat_ofNat]
  omega

/-- The offered length enters `Encode` only through the number of payload bytes it gives (R91). -/
theorem encodePacket_congr_len {l m : Half} (h : payloadCount l = payloadCount m) (v : Byte) (k : Bool)
    (t f r : Byte) (q : Word) (p : List Byte) : encodePacket v k t f r q l p = encodePacket v k t f r q m p := by
  simp only [encodePacket, h]

/-- `Encode` looks at no offered byte beyond those it places (R91). -/
theorem encodePacket_take (v : Byte) (k : Bool) (t f r : Byte) (q : Word) (l : Half) (p : List Byte) :
    encodePacket v k t f r q l (p.take (payloadCount l)) = encodePacket v k t f r q l p := by
  simp only [encodePacket, List.take_take, Nat.min_self]

/-- The bytes of the frame: the packed inputs with the payload count and the checksum, then the payload (R89). -/
theorem encodePacket_bytes (v : Byte) (k : Bool) (t f r : Byte) (q : Word) (l : Half) (p : List Byte) :
    (encodePacket v k t f r q l p).bytes =
      packHeader ⟨v, t, f, r, q, BitVec.ofNat 16 (payloadCount l), (encodePacket v k t f r q l p).header.checksum⟩
        ++ p.take (payloadCount l) := rfl

/-- What the checksum is the sum of: the header with a zero checksum field, then the payload (R89). -/
theorem checksumOf_encodePacket (v : Byte) (k : Bool) (t f r : Byte) (q : Word) (l : Half) (p : List Byte) :
    checksumOf (encodePacket v k t f r q l p) =
      byteSum (packHeader ⟨v, t, f, r, q, BitVec.ofNat 16 (payloadCount l), 0x0000#16⟩
        ++ p.take (payloadCount l)) := rfl

/-! ### The packet that ENCODE sends -/

section
variable (s : State)

@[simp] theorem State.packetToSend_typ : s.packetToSend.header.typ = s.tx.typ := rfl
@[simp] theorem State.packetToSend_flags : s.packetToSend.header.flags = s.tx.flags := rfl
@[simp] theorem State.packetToSend_reserved : s.packetToSend.header.reserved = s.tx.rsvd := rfl
@[simp] theorem State.packetToSend_sequence : s.packetToSend.header.sequence = s.tx.seq := rfl

theorem State.packetToSend_payloadLength :
    s.packetToSend.header.payloadLength = BitVec.ofNat 16 (payloadCount s.tx.len) := rfl

@[simp] theorem State.packetToSend_payload : s.packetToSend.payload = s.tx.txp.bytes (payloadCount s.tx.len) := by
  rw [State.packetToSend, encodePacket_payload, Memory.bytes_take _ le_rfl]

theorem State.packetToSend_checksum :
    s.packetToSend.header.checksum = if s.cken then checksumOf s.packetToSend else 0x0000#16 :=
  encodePacket_checksum ..

/-- All of `TXP` may be taken as the offered payload: `Encode` itself cuts it. -/
theorem State.packetToSend_eq_encodePacket :
    s.packetToSend =
      encodePacket s.version s.cken s.tx.typ s.tx.flags s.tx.rsvd s.tx.seq s.tx.len (s.tx.txp.bytes 512) := by
  rw [← encodePacket_take _ _ _ _ _ _ _ (s.tx.txp.bytes 512), Memory.bytes_take _ (payloadCount_le _)]
  rfl

/-- The sum that ENCODE computes, over the registers and the bytes of `TXP` (R89). -/
theorem State.checksumOf_packetToSend_toNat :
    (checksumOf s.packetToSend).toNat =
      (s.version.toNat + s.tx.typ.toNat + s.tx.flags.toNat + s.tx.rsvd.toNat + total32 s.tx.seq
        + total16 (BitVec.ofNat 16 (payloadCount s.tx.len))
        + total (payloadCount s.tx.len) s.tx.txp.read) % 65536 := by
  simp [checksumOf_toNat, sum_bytes, s.packetToSend_payloadLength]

/-! ### The state after ENCODE -/

theorem State.sendPacket_frame :
    s.sendPacket.frame =
      { cksum := s.packetToSend.header.checksum, len := BitVec.ofNat 10 (12 + payloadCount s.tx.len),
        txf := Memory.ofBytes s.packetToSend.bytes } := rfl

theorem State.readByte_txf_sendPacket (i : Nat) :
    s.sendPacket.readByte .txf i = (Memory.ofBytes s.packetToSend.bytes).read i := rfl

/-- The length field of the frame (R89). -/
theorem State.sendPacket_plen_bytes :
    (be16 (s.sendPacket.readByte .txf 8) (s.sendPacket.readByte .txf 9)).toNat = payloadCount s.tx.len := by
  simp only [s.readByte_txf_sendPacket, read_ofBytes_plen, s.packetToSend_plen]

/-- The payload of the frame: the first bytes of `TXP` (R89, R91). -/
theorem State.sendPacket_payload_byte {i : Nat} (h : i < payloadCount s.tx.len) :
    s.sendPacket.readByte .txf (12 + i) = s.readByte .txp i := by
  rw [s.readByte_txf_sendPacket, read_ofBytes_payload, s.packetToSend_payload]
  exact byteAt_bytes _ h

/-- `TXF` beyond the frame (R35, R89). -/
theorem State.sendPacket_end_byte {i : Nat} (h : 12 + payloadCount s.tx.len ≤ i) :
    s.sendPacket.readByte .txf i = 0x00#8 :=
  read_ofBytes_end (by simpa using h)

@[simp] theorem State.encodedFrame_sendPacket : s.sendPacket.encodedFrame = s.packetToSend.bytes := by
  have hlen : s.sendPacket.frame.len.toNat = s.packetToSend.bytes.length := by simp
  rw [State.encodedFrame, hlen, s.sendPacket_txf, Memory.bytes_ofBytes]

/-- The frame of ENCODE (R44). -/
theorem State.sameExcept_sendPacket : SameExcept [.txCksum, .txfLen, .status] [.txf] s s.sendPacket := by
  refine ⟨fun r hr => ?_, fun b hb i => ?_⟩
  · cases r with
    | txCksum | txfLen | status => exact absurd hr (by decide)
    | _ => rfl
  · cases b with
    | txf => exact absurd hb (by decide)
    | _ => rfl

/-- Two offers that give the same number of payload bytes give the same frame (R91). -/
theorem State.sendPacket_frame_congr_len {l m : Half} (h : payloadCount l = payloadCount m) :
    (s.writeReg .txLen l).sendPacket.frame = (s.writeReg .txLen m).sendPacket.frame := by
  have hp : (s.writeReg .txLen l).packetToSend = (s.writeReg .txLen m).packetToSend := by
    simp only [State.packetToSend_eq_encodePacket]
    exact encodePacket_congr_len h ..
  have hn : payloadCount (s.writeReg .txLen l).tx.len = payloadCount (s.writeReg .txLen m).tx.len := h
  rw [State.sendPacket_frame, State.sendPacket_frame, hp, hn]

theorem State.readReg_ctrl_eq_one_iff : s.readReg .ctrl = 0x01#8 ↔ s.cken = true :=
  (by decide : ∀ k : Bool, 0#7 ++ BitVec.ofBool k = 0x01#8 ↔ k = true) s.cken

end

/-! ### The statements -/

/-- Settles O29: ENCODE leaves the bytes of `State.packetToSend` in `TXF`, each field at its place. -/
theorem encodeBuildsTheFrame : Obligations.EncodeBuildsTheFrame := by
  refine ⟨rfl, fun s => ?_⟩
  simp only [ne_eq, s.readReg_ctrl_eq_one_iff]
  refine ⟨s.sendPacket, exec_encode s, s.sendPacket_len, read_ofBytes_version _, read_ofBytes_typ _,
    read_ofBytes_flags _, read_ofBytes_reserved _, read_ofBytes_sequence _, s.sendPacket_plen_bytes,
    read_ofBytes_cksum _, fun i hi => s.sendPacket_payload_byte hi, fun i hi => s.sendPacket_end_byte hi,
    fun hk => ?_, fun hk => ?_, rfl, s.sameExcept_sendPacket⟩
  · have hck : s.packetToSend.header.checksum = checksumOf s.packetToSend := by
      rw [s.packetToSend_checksum, if_pos hk]
    exact (congrArg BitVec.toNat hck).trans s.checksumOf_packetToSend_toNat
  · exact s.packetToSend_checksum.trans (if_neg hk)

/-- Settles O30: the offered length enters the frame only through the number of payload bytes. -/
theorem encodeTruncates : Obligations.EncodeTruncates := by
  intro s l
  have hn : payloadCount l = payloadCount (BitVec.ofNat 16 (payloadCount l)) :=
    (payloadCount_ofNat (payloadCount_le l)).symm
  exact ⟨(s.writeReg .txLen l).sendPacket, (s.writeReg .txLen (BitVec.ofNat 16 (payloadCount l))).sendPacket,
    exec_encode _, exec_encode _, s.sendPacket_frame_congr_len hn, rfl, rfl, State.sendPacket_len _,
    State.sendPacket_plen_bytes _, fun _ hi => State.sendPacket_payload_byte _ hi, rfl⟩

/-- Settles O32: `Encode` is its header, then the bytes placed, and ENCODE leaves the bytes of its packet in `TXF`. -/
theorem encodedFrameIsThePureFunction : Obligations.EncodedFrameIsThePureFunction := by
  refine ⟨fun v k t f r q l p => ?_, fun s => ⟨s.sendPacket, exec_encode s, ?_⟩⟩
  · intro n hn header c frame
    have hc : (encodePacket v k t f r q l p).header.checksum = c := by
      rw [encodePacket_checksum, checksumOf_encodePacket, payloadCount_eq]
    have hframe : frame = header c ++ p.take n := by
      rw [← hc]
      exact encodePacket_bytes ..
    refine ⟨hframe, ?_⟩
    rw [hframe, List.length_append, packHeader_length, List.length_take, Nat.min_eq_left hn]
  · rw [s.encodedFrame_sendPacket, s.packetToSend_eq_encodePacket]
    rfl

end Sys2Proof.Machine

/-! PROOFS of the family 41_decode.md: DECODE holds `State.receivedPacket` exactly when the received bytes cover the
frame (R97 to R100); that packet depends on the frame's bytes alone, so trailing bytes are ignored (R101); and the pure
function `Decode` is inverse to the bytes of a packet (R103). -/

namespace Sys2Proof

/-! ### Decode and the bytes of a packet -/

/-- The header is in the first 12 bytes, whatever payload follows. -/
@[simp] theorem unpackHeader_bytes (p : Packet) : unpackHeader p.bytes = p.header :=
  calc unpackHeader p.bytes = unpackHeader (packHeader p.header) :=
        unpackHeader_congr fun _ hi => byteAt_append_left hi
    _ = p.header := unpackHeader_packHeader p.header

theorem Packet.bytes_drop (p : Packet) : p.bytes.drop 12 = p.payload := List.drop_left' (packHeader_length p.header)

theorem decodePacket_bytes {p : Packet} (h : p.payload.length = p.header.payloadLength.toNat) :
    decodePacket p.bytes = .ok p := by
  refine decodePacket_eq_ok.2 ⟨?_, ?_⟩
  · rw [unpackHeader_bytes, Packet.bytes_length, h]
  · rw [unpackHeader_bytes, p.bytes_drop, ← h, List.take_length]

/-- The packet decoded packs back to the frame, without the bytes that follow it (R69, R101). -/
theorem bytes_of_decodePacket {bs : List Byte} {p : Packet} (h : decodePacket bs = .ok p) :
    p.bytes = bs.take (12 + p.header.payloadLength.toNat) := by
  obtain ⟨hfit, rfl⟩ := decodePacket_eq_ok.1 h
  rw [Packet.bytes, packHeader_unpackHeader (by omega), List.take_add]

end Sys2Proof

namespace Sys2Proof.Machine

theorem encodePacket_payload_length (v : Byte) (k : Bool) (t f r : Byte) (q : Word) {l : Half} {p : List Byte}
    (h : payloadCount l ≤ p.length) :
    (encodePacket v k t f r q l p).payload.length = (encodePacket v k t f r q l p).header.payloadLength.toNat := by
  rw [encodePacket_plen, encodePacket_payload, List.length_take, Nat.min_eq_left h]

theorem Memory.bytes_drop_take (m : Memory) {n a k : Nat} (h : a + k ≤ n) :
    ((m.bytes n).drop a).take k = (List.range k).map fun i => m.read (a + i) := by
  refine List.ext_getElem (by simp; omega) fun i _ _ => ?_
  simp

/-! ### The frame that DECODE finds in `RXF` -/

section
variable (s : State)

/-- The header at the head of `RXF`, each field at its place (R64, R67). -/
def State.receivedHeader : Header where
  version := s.readByte .rxf 0
  typ := s.readByte .rxf 1
  flags := s.readByte .rxf 2
  reserved := s.readByte .rxf 3
  sequence := be32 (s.readByte .rxf 4) (s.readByte .rxf 5) (s.readByte .rxf 6) (s.readByte .rxf 7)
  payloadLength := be16 (s.readByte .rxf 8) (s.readByte .rxf 9)
  checksum := be16 (s.readByte .rxf 10) (s.readByte .rxf 11)

/-- The number of bytes of the frame, by its own length field (R63). -/
def State.receivedSize : Nat := 12 + s.receivedHeader.payloadLength.toNat

/-- The packet at the head of `RXF`, whatever `RXF_LEN` says (R97). -/
def State.receivedPacket : Packet where
  header := s.receivedHeader
  payload := (List.range s.receivedHeader.payloadLength.toNat).map fun i => s.readByte .rxf (12 + i)

theorem State.receivedPacket_header : s.receivedPacket.header = s.receivedHeader := rfl

theorem State.receivedPacket_payload_length :
    s.receivedPacket.payload.length = s.receivedPacket.header.payloadLength.toNat := by
  simp [State.receivedPacket]

variable {s}

theorem State.unpackHeader_datagram (h : 12 ≤ s.gram.len.toNat) : unpackHeader s.datagram = s.receivedHeader := by
  have hbyte : ∀ i, i < 12 → byteAt s.datagram i = s.readByte .rxf i := fun i hi =>
    s.byteAt_datagram (by omega)
  simp [unpackHeader, State.receivedHeader, hbyte]

/-- DECODE succeeds when the received bytes cover the frame (R97). -/
theorem State.decodePacket_datagram_ok (h : s.receivedSize ≤ s.gram.len.toNat) :
    decodePacket s.datagram = .ok s.receivedPacket := by
  unfold State.receivedSize at h
  refine decodePacket_eq_ok.2 ?_
  rw [State.unpackHeader_datagram (by omega), s.datagram_length]
  refine ⟨h, ?_⟩
  rw [State.datagram, Memory.bytes_drop_take _ h]
  rfl

/-- Otherwise it fails, for a short header as for a short payload (R98, R99). -/
theorem State.decodePacket_datagram_error (h : s.gram.len.toNat < s.receivedSize) :
    ∃ e, decodePacket s.datagram = .error e := by
  unfold State.receivedSize at h
  refine decodePacket_eq_error.2 ?_
  rw [s.datagram_length]
  by_cases h12 : s.gram.len.toNat < 12
  · omega
  · rwa [State.unpackHeader_datagram (by omega)]

/-! ### What DECODE does -/

theorem exec_decode_covered (h : s.receivedSize ≤ s.gram.len.toNat) :
    exec .decode s = .next (s.holdPacket s.receivedPacket) :=
  exec_decode_ok (State.decodePacket_datagram_ok h)

theorem exec_decode_short (h : s.gram.len.toNat < s.receivedSize) : exec .decode s = .next s.dropPacket := by
  obtain ⟨e, he⟩ := State.decodePacket_datagram_error h
  exact exec_decode_error he

/-- `RXP` holds the payload of the frame (R37, R97). -/
theorem State.readByte_rxp_holdPacket_received {i : Nat} (h : i < s.receivedHeader.payloadLength.toNat) :
    (s.holdPacket s.receivedPacket).readByte .rxp i = s.readByte .rxf (12 + i) := by
  have hread : (s.holdPacket s.receivedPacket).readByte .rxp i = s.receivedPacket.payload.getD i 0x00#8 :=
    Memory.read_ofBytes _ i
  rw [hread]
  simp [State.receivedPacket, h]

variable (s)

/-- `RXP` beyond the payload (R37, R97). -/
theorem State.readByte_rxp_holdPacket_end (p : Packet) {i : Nat} (h : p.payload.length ≤ i) :
    (s.holdPacket p).readByte .rxp i = 0x00#8 := read_ofBytes_end h

/-- `TUNK` marks the types outside the table (R24). -/
theorem Status.tunk_decoded_eq_false_iff (f : Status) (t : Byte) :
    (f.decoded t).tunk = false ↔ t ∈ [0x01#8, 0x02#8, 0x03#8, 0x10#8, 0x11#8, 0x20#8, 0x21#8] := by
  rw [Status.decoded_tunk, Bool.not_eq_false', typeDefined_iff]

theorem State.readReg_dropPacket {r : Reg} (hr : r ∈ packetRegs) : s.dropPacket.readReg r = 0#r.width := by
  cases r with
  | rxVer | rxType | rxFlags | rxRsvd | rxSeq | rxPlen | rxCksum | rxCalc => rfl
  | _ => exact absurd hr (by decide)

/-- The frame of a state change in the decoded packet and `STATUS` (R44). -/
theorem State.sameExcept_setRx (rx : RxPacket) (f : Status) :
    SameExcept (.status :: packetRegs) [.rxp] s { s with rx := rx, status := f } := by
  refine ⟨fun r hr => ?_, fun b hb i => ?_⟩
  · cases r with
    | status | rxVer | rxType | rxFlags | rxRsvd | rxSeq | rxPlen | rxCksum | rxCalc =>
      exact absurd hr (by decide)
    | _ => rfl
  · cases b with
    | rxp => exact absurd hb (by decide)
    | _ => rfl

theorem State.sameExcept_holdPacket (p : Packet) :
    SameExcept (.status :: packetRegs) [.rxp] s (s.holdPacket p) := s.sameExcept_setRx _ _

theorem State.sameExcept_dropPacket : SameExcept (.status :: packetRegs) [.rxp] s s.dropPacket :=
  s.sameExcept_setRx _ _

/-! ### Another receive buffer -/

/-- The packet depends on the bytes of the frame alone (R101). -/
theorem State.receivedPacket_congr {t : State}
    (h : ∀ i, i < s.receivedSize → t.readByte .rxf i = s.readByte .rxf i) :
    t.receivedPacket = s.receivedPacket := by
  unfold State.receivedSize at h
  have hheader : t.receivedHeader = s.receivedHeader := by
    have hbyte : ∀ i, i < 12 → t.readByte .rxf i = s.readByte .rxf i := fun i hi => h i (by omega)
    simp [State.receivedHeader, hbyte]
  simp only [State.receivedPacket, hheader, Packet.mk.injEq, true_and]
  exact List.map_congr_left fun i hi => h _ (Nat.add_lt_add_left (List.mem_range.1 hi) 12)

theorem State.holdPacket_setGram (g : RxGram) (p : Packet) :
    State.holdPacket { s with gram := g } p = { s.holdPacket p with gram := g } := rfl

/-- VALIDATE does not look at the received datagram (R115). -/
theorem exec_validate_setGram {s t : State} (h : exec .validate s = .next t) (g : RxGram) :
    exec .validate { s with gram := g } = .next { t with gram := g } := by
  cases hv : s.status.rxv with
  | false =>
    rw [exec_validate_none hv] at h
    cases h
    exact exec_validate_none hv
  | true =>
    rw [exec_validate_held hv] at h
    cases h
    exact exec_validate_held hv

end

/-! ### The statements -/

/-- Settles O33: DECODE holds the packet at the head of `RXF` when the received bytes cover it, and else drops it. -/
theorem decodeUnpacksTheFrame : Obligations.DecodeUnpacksTheFrame := by
  refine ⟨rfl, fun s => ⟨fun _ hfit => ?_, fun hshort => ?_⟩⟩
  · have hend : ∀ i, s.receivedHeader.payloadLength.toNat ≤ i →
        (s.holdPacket s.receivedPacket).readByte .rxp i = 0x00#8 := fun i hi =>
      s.readByte_rxp_holdPacket_end _ (s.receivedPacket_payload_length.trans_le hi)
    exact ⟨s.holdPacket s.receivedPacket, exec_decode_covered hfit, rfl, rfl, rfl, rfl, rfl, rfl, rfl, rfl,
      fun i hi => State.readByte_rxp_holdPacket_received hi, hend,
      ⟨_, rfl, s.status.tunk_decoded_eq_false_iff _⟩, s.sameExcept_holdPacket _⟩
  · have hsize : s.gram.len.toNat < s.receivedSize := hshort.elim (Nat.lt_add_right _) id
    exact ⟨s.dropPacket, exec_decode_short hsize, fun r hr => s.readReg_dropPacket hr, fun _ => rfl, rfl,
      s.sameExcept_dropPacket⟩

/-- Settles O34: the two causes together say that the received bytes do not cover the frame, and a length below 12
covers no frame, whatever the bytes. -/
theorem malformedHasTwoCauses : Obligations.MalformedHasTwoCauses := by
  intro s m plen
  have hcauses : (m < 12 ∨ (12 ≤ m ∧ m < 12 + plen.toNat)) ↔ m < s.receivedSize := by
    show _ ↔ m < 12 + plen.toNat
    omega
  rw [hcauses]
  rcases Nat.lt_or_ge m s.receivedSize with hshort | hfit
  · refine ⟨s.dropPacket, exec_decode_short hshort, iff_of_true rfl hshort, fun h12 rxf => ?_⟩
    exact ⟨_, exec_decode_short (Nat.lt_add_right _ h12), rfl, rfl⟩
  · refine ⟨s.holdPacket s.receivedPacket, exec_decode_covered hfit, iff_of_false nofun (Nat.not_lt.2 hfit),
      fun h12 => ?_⟩
    exact absurd ((Nat.le_add_right 12 _).trans hfit) (Nat.not_le.2 h12)

/-- Settles O35: a frame that at most 524 bytes cover has at most 512 bytes of payload. -/
theorem overlongPayloadIsMalformed : Obligations.OverlongPayloadIsMalformed := by
  intro s (hlen : s.gram.len.toNat ≤ 524)
  rcases Nat.lt_or_ge s.gram.len.toNat s.receivedSize with hshort | hfit
  · exact ⟨s.dropPacket, exec_decode_short hshort, Nat.zero_le _, fun _ => rfl⟩
  · have hplen : s.receivedHeader.payloadLength.toNat ≤ 512 := by
      unfold State.receivedSize at hfit
      omega
    exact ⟨s.holdPacket s.receivedPacket, exec_decode_covered hfit, hplen, fun hover =>
      absurd hplen (Nat.not_le.2 hover)⟩

/-- Settles O36: both buffers hold the same packet, and from there on neither DECODE's result nor VALIDATE depends on
the buffer. -/
theorem trailingBytesAreIgnored : Obligations.TrailingBytesAreIgnored := by
  intro s g k hs hg hagree
  have hpacket : State.receivedPacket { s with gram := g } = s.receivedPacket := s.receivedPacket_congr hagree
  have hfit : State.receivedSize { s with gram := g } ≤ g.len.toNat := by
    rw [State.receivedSize, ← State.receivedPacket_header, hpacket]
    exact hg
  have hdecode : exec .decode { s with gram := g } = .next { s.holdPacket s.receivedPacket with gram := g } := by
    rw [exec_decode_covered hfit, hpacket, s.holdPacket_setGram]
  obtain ⟨t', ht'⟩ := exec_next .validate (s.holdPacket s.receivedPacket)
  exact ⟨_, _, t', _, exec_decode_covered hs, hdecode, ht', exec_validate_setGram ht' g, rfl, rfl, rfl, rfl, rfl⟩

/-- Settles O37: an encoded packet's payload is as long as its length field says, so `Decode` gives the packet back; and
a packet decoded packs back to its frame, which without trailing bytes is the whole input. -/
theorem decodeOfEncodeIsThePacket : Obligations.DecodeOfEncodeIsThePacket := by
  refine ⟨fun bs => ⟨fun hshort => ?_, fun hfit => ?_⟩, fun v k t f r q l p hp => ?_, fun bs q hq hlen => ?_⟩
  · exact decodePacket_eq_error.2 (hshort.elim (Nat.lt_add_right _) id)
  · exact decodePacket_eq_ok.2 ⟨hfit, rfl⟩
  · rw [← payloadCount_eq] at hp ⊢
    exact ⟨_, decodePacket_bytes (encodePacket_payload_length v k t f r q hp), rfl, rfl, rfl, rfl, rfl,
      encodePacket_plen .., encodePacket_payload .., rfl⟩
  · rw [bytes_of_decodePacket hq, ← hlen, List.take_length]

end Sys2Proof.Machine

/-! PROOFS of the family 42_checksum.md: `ByteSum` is a sum of 16-bit words over the bytes, from which its forms and laws
follow by arithmetic modulo 65536 (R105 to R107); the sum that ENCODE and VALIDATE compute is the `FrameSum` of the
packet's bytes (R108); and what CSUM writes (R109, R110). -/

namespace Sys2Proof.Machine

/-! ### `ByteSum` in 16-bit arithmetic -/

/-- The reduction modulo 65536 is that of the 16-bit result (R105). -/
theorem byteSum_eq_ofNat (bs : List Byte) : byteSum bs = BitVec.ofNat 16 (bs.map BitVec.toNat).sum := by
  rw [← BitVec.toNat_inj, byteSum_toNat, BitVec.toNat_ofNat]

theorem byteSum_nil : byteSum [] = 0x0000#16 := rfl

theorem byteSum_append (a b : List Byte) : byteSum (a ++ b) = byteSum a + byteSum b := by
  simp only [byteSum_eq_ofNat, List.map_append, List.sum_append, BitVec.ofNat_add]

theorem byteSum_cons (x : Byte) (bs : List Byte) : byteSum (x :: bs) = x.setWidth 16 + byteSum bs := by
  simp only [byteSum_eq_ofNat, List.map_cons, List.sum_cons, BitVec.ofNat_add, BitVec.ofNat_toNat]

theorem byteSum_perm {a b : List Byte} (h : a.Perm b) : byteSum a = byteSum b := by
  rw [byteSum_eq_ofNat, byteSum_eq_ofNat, (h.map BitVec.toNat).sum_eq]

/-- An accumulator of any width holds the sum modulo its own power of two (R106). -/
theorem foldl_add_setWidth {w : Nat} (bs : List Byte) (a : BitVec w) :
    bs.foldl (fun (a : BitVec w) b => a + b.setWidth w) a = a + BitVec.ofNat w (bs.map BitVec.toNat).sum := by
  induction bs generalizing a with
  | nil => simp
  | cons b bs ih =>
    rw [List.foldl_cons, ih, List.map_cons, List.sum_cons, BitVec.ofNat_add, BitVec.ofNat_toNat, add_assoc]

/-- The low 16 bits of such an accumulator are `ByteSum` (R106). -/
theorem setWidth_foldl_eq_byteSum {w : Nat} (h : 16 ≤ w) (bs : List Byte) :
    (bs.foldl (fun (a : BitVec w) b => a + b.setWidth w) 0#w).setWidth 16 = byteSum bs := by
  rw [foldl_add_setWidth, BitVec.zero_add, BitVec.setWidth_ofNat_of_le h, byteSum_eq_ofNat]

theorem sum_map_toNat_le (bs : List Byte) : (bs.map BitVec.toNat).sum ≤ bs.length * 255 := by
  have hbyte : ∀ n ∈ bs.map BitVec.toNat, n ≤ 255 := by
    simp only [List.forall_mem_map]
    exact fun b _ => Nat.le_of_lt_succ b.isLt
  simpa using List.sum_le_card_nsmul _ 255 hbyte

/-- Two bytes that differ differ as 16-bit numbers. -/
theorem setWidth_byte_inj {x y : Byte} : x.setWidth 16 = y.setWidth 16 ↔ x = y := by bv_omega

/-- The sum of two bytes does not reach 65536, so equal sums are equal 16-bit sums (R107). -/
theorem setWidth_byte_add_eq {x y x' y' : Byte} (h : x.toNat + y.toNat = x'.toNat + y'.toNat) :
    x.setWidth 16 + y.setWidth 16 = x'.setWidth 16 + y'.setWidth 16 := by bv_omega

/-! ### `FrameSum` -/

theorem frameSum_eq_add (f : List Byte) : frameSum f = byteSum (f.take 10) + byteSum (f.drop 12) := by
  have hzeros : byteSum [0x00#8, 0x00#8] = 0x0000#16 := by decide
  rw [frameSum, byteSum_append, byteSum_append, hzeros, BitVec.add_zero]

/-- A frame of at least 12 bytes around its checksum field (R64). -/
theorem take_append_cksum_append_drop {f : List Byte} (h : 12 ≤ f.length) :
    f.take 10 ++ byteAt f 10 :: byteAt f 11 :: f.drop 12 = f := by
  have h10 : byteAt f 10 = f[10] := List.getD_eq_getElem ..
  have h11 : byteAt f 11 = f[11] := List.getD_eq_getElem ..
  rw [h10, h11, List.cons_getElem_drop_succ, List.cons_getElem_drop_succ, List.take_append_drop]

/-- The two bytes of the checksum field are what `ByteSum` counts and `FrameSum` does not (R108). -/
theorem frameSum_eq_sub {f : List Byte} (h : 12 ≤ f.length) :
    frameSum f = byteSum f - (byteAt f 10).setWidth 16 - (byteAt f 11).setWidth 16 := by
  have hsplit : byteSum f =
      byteSum (f.take 10) + ((byteAt f 10).setWidth 16 + ((byteAt f 11).setWidth 16 + byteSum (f.drop 12))) := by
    rw [← byteSum_cons, ← byteSum_cons, ← byteSum_append, take_append_cksum_append_drop h]
  rw [frameSum_eq_add, hsplit]
  ring

/-- The sum that ENCODE and VALIDATE compute is the `FrameSum` of the packet's bytes (R92, R108, R115). -/
theorem frameSum_bytes (p : Packet) : frameSum p.bytes = checksumOf p := by
  have hheader : p.bytes.take 10 ++ [0x00#8, 0x00#8] = packHeader { p.header with checksum := 0x0000#16 } := by
    simp [Packet.bytes, packHeader, byteOf]
  rw [frameSum, checksumOf, hheader, Config.hdrSize, p.bytes_drop]

/-! ### CSUM -/

theorem State.byteSum_datagram_toNat (s : State) :
    (byteSum s.datagram).toNat = total (s.readReg .rxfLen).toNat (s.readByte .rxf) % 65536 := by
  rw [byteSum_toNat, State.datagram, sum_bytes]
  rfl

/-- The frame of a state change in `SUM` and `STATUS` (R109). -/
theorem State.sameExcept_setSum (s : State) (v : Half) (f : Status) :
    SameExcept [.sum, .status] [] s { s with sum := v, status := f } := by
  refine ⟨fun r hr => ?_, fun b _ i => ?_⟩
  · cases r with
    | sum | status => exact absurd hr (by decide)
    | _ => rfl
  · cases b <;> rfl

theorem total_eq_mul {n : Nat} {f : Nat → Byte} {b : Byte} (h : ∀ i, i < n → f i = b) : total n f = n * b.toNat := by
  have hmap : (List.range n).map (fun i => (f i).toNat) = List.replicate n b.toNat :=
    List.eq_replicate_iff.2 ⟨by simp, by simp +contextual [h]⟩
  rw [total, hmap, List.sum_replicate, smul_eq_mul]

/-! ### The statements -/

/-- Settles O38: an accumulator of width `w` holds the sum modulo `2 ^ w`, and a byte adds at most 255. -/
theorem byteSumForms : Obligations.ByteSumForms := by
  refine ⟨byteSum_nil, fun bs => ⟨byteSum_toNat bs, fun cs hperm => ?_, fun w hw =>
    setWidth_foldl_eq_byteSum hw bs, fun hlen => ?_⟩⟩
  · rw [← byteSum_perm hperm, ← setWidth_foldl_eq_byteSum le_rfl cs, BitVec.setWidth_eq]
  · have := sum_map_toNat_le bs
    omega

/-- Settles O39: each law is one of 16-bit addition, after the lists are taken apart around the bytes changed. -/
theorem byteSumLaws : Obligations.ByteSumLaws := by
  refine ⟨fun a b => ?_, fun a b => byteSum_perm, fun a b => ?_, fun a b x y hxy heq => ?_,
    fun a b c x y x' y' hsum => ?_⟩
  · rw [byteSum_append, BitVec.toNat_add]
  · rw [byteSum_append, byteSum_append, byteSum_cons, BitVec.setWidth_zero, BitVec.zero_add]
  · simp only [byteSum_append, byteSum_cons] at heq
    exact hxy (setWidth_byte_inj.1 (add_right_cancel (add_left_cancel heq)))
  · simp only [byteSum_append, byteSum_cons]
    linear_combination setWidth_byte_add_eq hsum

/-- Settles O40: ENCODE and VALIDATE write `checksumOf` of the packet sent and of the packet held, which is the
`FrameSum` of its bytes. -/
theorem frameSumForms : Obligations.FrameSumForms := by
  refine ⟨fun f hf => ⟨rfl, ?_, frameSum_eq_sub hf⟩, fun s hs => ⟨s.sendPacket, exec_encode s, ?_⟩, fun s hs =>
    ⟨_, exec_validate_held hs, (frameSum_bytes s.heldPacket).symm⟩⟩
  · rw [frameSum_eq_add, BitVec.toNat_add]
  · have hck : s.packetToSend.header.checksum = checksumOf s.packetToSend := by
      rw [s.packetToSend_checksum, if_pos (s.readReg_ctrl_eq_one_iff.1 hs)]
    rw [s.encodedFrame_sendPacket, frameSum_bytes]
    exact hck

/-- Settles O41: `SUM` gets `ByteSum` of the received bytes, and the frame of CSUM is `SUM` and `STATUS`. -/
theorem csumSumsTheReceivedBytes : Obligations.CsumSumsTheReceivedBytes :=
  ⟨rfl, fun s => ⟨_, exec_csum s, s.byteSum_datagram_toNat, rfl, s.sameExcept_setSum _ _⟩⟩

/-- Settles O42: the sum of `n` bytes 0xFF is `n * 255`, and the three lengths give its values modulo 65536. -/
theorem csumWraps : Obligations.CsumWraps := by
  intro s hff
  have hsum : (byteSum s.datagram).toNat = (s.readReg .rxfLen).toNat * 255 % 65536 := by
    rw [s.byteSum_datagram_toNat, total_eq_mul hff]
    rfl
  refine ⟨_, exec_csum s, hsum, fun hlen => ?_, fun hlen => ?_, fun hlen => ?_⟩ <;>
  · rw [hlen] at hsum
    exact BitVec.eq_of_toNat_eq hsum

end Sys2Proof.Machine

/-! PROOFS of the family 43_validate.md: VALIDATE writes the verdict of the pure function `Validate` on the packet held
(R114 to R120, R122), over the frame as DECODE took it (R115); what it writes enters neither the packet nor the verdict,
so doing it again changes nothing (R121); and how a receiver judges a frame that `Encode` built (R122). -/

namespace Sys2Proof.Machine

/-! ### The four verdicts of `Validate` -/

section
variable {v : Byte} {p : Packet}

theorem validatePacket_version_ne (hv : p.header.version ≠ v) : validatePacket v p = .versionMismatch := if_pos hv

theorem validatePacket_zero_checksum (hv : p.header.version = v) (hz : p.header.checksum = 0x0000#16) :
    validatePacket v p = .acceptUnchecked := by
  rw [validatePacket, if_neg (not_not.2 hv), if_pos hz]

theorem validatePacket_checksum_eq (hv : p.header.version = v) (hz : p.header.checksum ≠ 0x0000#16)
    (hc : p.header.checksum = checksumOf p) : validatePacket v p = .acceptChecked := by
  rw [validatePacket, if_neg (not_not.2 hv), if_neg hz, if_neg (not_not.2 hc)]

theorem validatePacket_checksum_ne (hv : p.header.version = v) (hz : p.header.checksum ≠ 0x0000#16)
    (hc : p.header.checksum ≠ checksumOf p) : validatePacket v p = .checksumMismatch := by
  rw [validatePacket, if_neg (not_not.2 hv), if_neg hz, if_pos hc]

end

/-- A receiver of the encoder's version accepts what `Encode` built, and compares the sum unless the checksum field is
zero, because `CKEN` was 0 or because the sum is (R94, R122). -/
theorem validatePacket_encodePacket (v : Byte) (k : Bool) (t f r : Byte) (q : Word) (l : Half) (p : List Byte) :
    validatePacket v (encodePacket v k t f r q l p) =
      if k = true ∧ checksumOf (encodePacket v k t f r q l p) ≠ 0x0000#16 then .acceptChecked
      else .acceptUnchecked := by
  have hck := encodePacket_checksum v k t f r q l p
  split
  next h =>
    obtain ⟨hk, hsum⟩ := h
    rw [if_pos hk] at hck
    exact validatePacket_checksum_eq rfl (hck ▸ hsum) hck
  next h =>
    refine validatePacket_zero_checksum rfl (hck.trans (ite_eq_right_iff.2 fun hk => ?_))
    exact not_not.1 fun hsum => h ⟨hk, hsum⟩

/-! ### What VALIDATE writes -/

theorem Status.judged_judged (f : Status) (v : Verdict) : (f.judged v).judged v = f.judged v := by cases v <;> rfl

section
variable (s : State)

/-- The state after a VALIDATE of the packet held (R114). -/
def State.judgePacket : State :=
  { s with
    rx := { s.rx with computed := checksumOf s.heldPacket }
    status := s.status.judged (validatePacket s.version s.heldPacket) }

@[simp] theorem State.judgePacket_status :
    s.judgePacket.status = s.status.judged (validatePacket s.version s.heldPacket) := rfl

/-- `RX_CALC` is no part of the packet held (R121). -/
@[simp] theorem State.heldPacket_setComputed (c : Half) (f : Status) :
    State.heldPacket { s with rx := { s.rx with computed := c }, status := f } = s.heldPacket := rfl

/-- Neither the packet held nor `VERSION` is written, so the same sum and the same verdict come again (R121). -/
theorem State.judgePacket_judgePacket : s.judgePacket.judgePacket = s.judgePacket := by
  simp only [State.judgePacket, State.heldPacket_setComputed, Status.judged_judged]

/-- The sum that VALIDATE computes, over the registers and the bytes of `RXP` (R114). -/
theorem State.checksumOf_heldPacket_toNat :
    (checksumOf s.heldPacket).toNat =
      (s.rx.ver.toNat + s.rx.typ.toNat + s.rx.flags.toNat + s.rx.rsvd.toNat + total32 s.rx.seq + total16 s.rx.plen
        + total s.rx.plen.toNat s.rx.rxp.read) % 65536 := by
  rw [checksumOf_toNat, ← sum_bytes]
  rfl

/-- The frame of a state change in `STATUS` alone, such as that of a VALIDATE without a packet (R120). -/
theorem State.sameExcept_setStatus (f : Status) : SameExcept [.status] [] s { s with status := f } := by
  refine ⟨fun r hr => ?_, fun b _ i => ?_⟩
  · cases r with
    | status => exact absurd hr (by decide)
    | _ => rfl
  · cases b <;> rfl

/-- The frame of a state change in `RX_CALC` and `STATUS`. -/
theorem State.sameExcept_setComputed (c : Half) (f : Status) :
    SameExcept [.rxCalc, .status] [] s { s with rx := { s.rx with computed := c }, status := f } := by
  refine ⟨fun r hr => ?_, fun b _ i => ?_⟩
  · cases r with
    | rxCalc | status => exact absurd hr (by decide)
    | _ => rfl
  · cases b <;> rfl

/-- The frame of a VALIDATE that reaches a verdict (R114). -/
theorem State.sameExcept_judgePacket : SameExcept [.rxCalc, .status] [] s s.judgePacket :=
  s.sameExcept_setComputed _ _

variable {s} {t : State}

theorem exec_validate_judgePacket (h : s.status.rxv = true) : exec .validate s = .next s.judgePacket :=
  exec_validate_held h

/-- Everything VALIDATE can do. -/
theorem exec_validate_cases (h : exec .validate s = .next t) :
    (s.status.rxv = false ∧ t = { s with status := s.status.unjudged }) ∨
      (s.status.rxv = true ∧ t = s.judgePacket) := by
  cases hv : s.status.rxv with
  | false =>
    rw [exec_validate_none hv] at h
    cases h
    exact .inl ⟨rfl, rfl⟩
  | true =>
    rw [exec_validate_judgePacket hv] at h
    cases h
    exact .inr ⟨rfl, rfl⟩

/-- The frame of VALIDATE, with a packet or without. -/
theorem exec_validate_sameExcept (h : exec .validate s = .next t) : SameExcept [.rxCalc, .status] [] s t := by
  obtain ⟨-, rfl⟩ | ⟨-, rfl⟩ := exec_validate_cases h
  · obtain ⟨hreg, hbyte⟩ := s.sameExcept_setStatus s.status.unjudged
    exact ⟨fun r hr => hreg r (List.not_mem_of_not_mem_cons hr), hbyte⟩
  · exact s.sameExcept_judgePacket

theorem exec_validate_rxv (h : exec .validate s = .next t) : t.status.rxv = s.status.rxv := by
  obtain ⟨-, rfl⟩ | ⟨-, rfl⟩ := exec_validate_cases h
  · rfl
  · simp

theorem exec_validate_again (h : exec .validate s = .next t) : exec .validate t = .next t := by
  have hrxv := exec_validate_rxv h
  obtain ⟨hv, rfl⟩ | ⟨hv, rfl⟩ := exec_validate_cases h
  · exact exec_validate_none (hrxv.trans hv)
  · rw [exec_validate_judgePacket (hrxv.trans hv), s.judgePacket_judgePacket]

end

/-- The bytes of the packet that DECODE finds are the frame as it stands in `RXF` (R68, R115). -/
theorem State.receivedPacket_bytes {s : State} (h : s.receivedSize ≤ s.gram.len.toNat) :
    s.receivedPacket.bytes = s.gram.rxf.bytes s.receivedSize :=
  calc s.receivedPacket.bytes = s.datagram.take s.receivedSize :=
        bytes_of_decodePacket (State.decodePacket_datagram_ok h)
    _ = s.gram.rxf.bytes s.receivedSize := Memory.bytes_take _ h

/-! ### The statements -/

/-- Settles O43: `RX_CALC` gets the sum of the packet held, and each clause is one verdict of `Validate` on it. -/
theorem validateJudgesThePacket : Obligations.ValidateJudgesThePacket := by
  refine ⟨rfl, fun s => ⟨fun hv => ⟨_, exec_validate_none hv, rfl, s.sameExcept_setStatus _⟩, fun hv => ?_⟩⟩
  intro sum
  have hsum : (checksumOf s.heldPacket).toNat = sum := s.checksumOf_heldPacket_toNat
  refine ⟨s.judgePacket, exec_validate_judgePacket hv, hsum, fun hver => ?_, fun hver hz => ?_, fun hver hz hne => ?_,
    fun hver hz heq => ?_, s.sameExcept_judgePacket⟩
  · exact congrArg s.status.judged (validatePacket_version_ne hver)
  · exact congrArg s.status.judged (validatePacket_zero_checksum hver hz)
  · exact congrArg s.status.judged
      (validatePacket_checksum_ne hver hz fun hc => hne ((congrArg BitVec.toNat hc).trans hsum))
  · exact congrArg s.status.judged
      (validatePacket_checksum_eq hver hz (BitVec.eq_of_toNat_eq (heq.trans hsum.symm)))

/-- Settles O44: the packet held after the DECODE has the bytes of the frame, and a change of `RXF` does not
reach it. -/
theorem validateSumsTheFrameDecoded : Obligations.ValidateSumsTheFrameDecoded := by
  intro s g plen hfit
  have hheld : (s.holdPacket s.receivedPacket).heldPacket = s.receivedPacket :=
    s.heldPacket_holdPacket s.receivedPacket_payload_length
  have hsum : checksumOf (s.holdPacket s.receivedPacket).heldPacket = frameSum (s.gram.rxf.bytes s.receivedSize) := by
    rw [hheld, ← frameSum_bytes, State.receivedPacket_bytes hfit]
  exact ⟨_, _, exec_decode_covered hfit, exec_validate_setGram (exec_validate_judgePacket rfl) g, hsum⟩

/-- Settles O45: the packet's registers and bytes are in the frame of VALIDATE, and what it reads it does not write. -/
theorem validateAgainChangesNothing : Obligations.ValidateAgainChangesNothing := by
  intro s
  obtain ⟨t, ht⟩ := exec_next .validate s
  obtain ⟨hreg, hbyte⟩ := exec_validate_sameExcept ht
  have hwritten : ∀ r ∈ [Reg.rxVer, .rxType, .rxFlags, .rxRsvd, .rxSeq, .rxPlen, .rxCksum],
      r ∉ [Reg.rxCalc, .status] := by decide
  exact ⟨t, ht, exec_validate_again ht, fun r hr => hreg r (hwritten r hr), hbyte .rxp (by simp),
    exec_validate_rxv ht⟩

/-- Settles O46: the clauses are the verdicts of `Validate`, and `Decode` gives back the very packet encoded, whose
version is the encoder's. -/
theorem policyOnEncodedFrames : Obligations.PolicyOnEncodedFrames := by
  refine ⟨fun v p => ⟨validatePacket_version_ne, validatePacket_zero_checksum, validatePacket_checksum_eq,
    validatePacket_checksum_ne⟩, fun v w k t f r q l p hp => ?_⟩
  intro e
  rw [← payloadCount_eq] at hp
  rw [frameSum_bytes]
  exact ⟨_, decodePacket_bytes (encodePacket_payload_length v k t f r q hp),
    validatePacket_encodePacket v k t f r q l p, fun hw => validatePacket_version_ne hw.symm⟩

end Sys2Proof.Machine

/-! PROOFS of the family 44_control.md: LOOP makes the encoded frame the received datagram (R123), or reports `NotReady`
(R124); and the packet that ENCODE sends is the packet that DECODE then holds and VALIDATE accepts (R125). -/

namespace Sys2Proof.Machine

/-! ### LOOP -/

section
variable (s : State)

/-- The state after a LOOP that finds an encoded frame (R123). -/
def State.loopFrame : State :=
  { s.raise .none with gram := { len := s.frame.len, rxf := s.gram.rxf.writeBytes 0 s.encodedFrame } }

theorem State.readByte_rxf_loopFrame (i : Nat) :
    s.loopFrame.readByte .rxf i =
      if i < s.frame.len.toNat then s.readByte .txf i else s.readByte .rxf i := by
  have hread := s.gram.rxf.read_writeBytes_zero s.encodedFrame i
  rw [s.encodedFrame_length] at hread
  refine hread.trans (ite_congr rfl (fun hi => ?_) fun _ => rfl)
  exact byteAt_bytes s.frame.txf hi

/-- After LOOP the received datagram is the encoded frame. -/
theorem State.datagram_loopFrame : s.loopFrame.datagram = s.encodedFrame :=
  Memory.bytes_congr fun i hi => (s.readByte_rxf_loopFrame i).trans (if_pos hi)

/-- The frame of a state change in the received datagram and `STATUS` (R44). -/
theorem State.sameExcept_setGram (g : RxGram) (f : Status) :
    SameExcept [.rxfLen, .status] [.rxf] s { s with gram := g, status := f } := by
  refine ⟨fun r hr => ?_, fun b hb i => ?_⟩
  · cases r with
    | rxfLen | status => exact absurd hr (by decide)
    | _ => rfl
  · cases b with
    | rxf => exact absurd hb (by decide)
    | _ => rfl

theorem State.sameExcept_loopFrame : SameExcept [.rxfLen, .status] [.rxf] s s.loopFrame :=
  s.sameExcept_setGram _ _

variable {s}

theorem exec_loop_loopFrame (h : s.status.txv = true) : exec .loop s = .next s.loopFrame := exec_loop_ready h

end

/-! ### The way of a packet through the block (R125) -/

theorem Status.judged_err (f : Status) (v : Verdict) :
    (f.judged v).err = .none ↔ v = .acceptChecked ∨ v = .acceptUnchecked := by
  cases v <;> simp [Status.judged]

/-- A receiver of the encoder's version accepts what `Encode` built (R94, R122). -/
theorem validatePacket_encodePacket_accepts (v : Byte) (k : Bool) (t f r : Byte) (q : Word) (l : Half)
    (p : List Byte) :
    validatePacket v (encodePacket v k t f r q l p) = .acceptChecked ∨
      validatePacket v (encodePacket v k t f r q l p) = .acceptUnchecked := by
  rw [validatePacket_encodePacket]
  exact ite_eq_or_eq ..

section
variable (s : State)

theorem State.packetToSend_payload_length_eq_plen :
    s.packetToSend.payload.length = s.packetToSend.header.payloadLength.toNat := by
  rw [s.packetToSend_payload_length, s.packetToSend_plen]

/-- The state after ENCODE, LOOP and DECODE: the packet sent is held. -/
def State.packetReceived : State := s.sendPacket.loopFrame.holdPacket s.packetToSend

theorem exec_decode_loopFrame_sendPacket : exec .decode s.sendPacket.loopFrame = .next s.packetReceived := by
  refine exec_decode_ok ?_
  rw [State.datagram_loopFrame, s.encodedFrame_sendPacket]
  exact decodePacket_bytes s.packetToSend_payload_length_eq_plen

@[simp] theorem State.heldPacket_packetReceived : s.packetReceived.heldPacket = s.packetToSend :=
  State.heldPacket_holdPacket _ s.packetToSend_payload_length_eq_plen

/-- The state after ENCODE, LOOP, DECODE and VALIDATE: the packet sent is judged. -/
def State.packetJudged : State := s.packetReceived.judgePacket

theorem State.packetJudged_status :
    s.packetJudged.status = s.packetReceived.status.judged (validatePacket s.version s.packetToSend) :=
  congrArg (fun p => s.packetReceived.status.judged (validatePacket s.version p)) s.heldPacket_packetReceived

theorem State.packetJudged_calc : s.packetJudged.readReg .rxCalc = checksumOf s.packetToSend :=
  congrArg checksumOf s.heldPacket_packetReceived

theorem State.packetJudged_plen : (s.packetJudged.readReg .rxPlen).toNat = payloadCount s.tx.len :=
  s.packetToSend_plen

theorem State.packetJudged_rxp (i : Nat) :
    s.packetJudged.readByte .rxp i = s.packetToSend.payload.getD i 0x00#8 := Memory.read_ofBytes _ i

/-- `RXP` holds the payload sent, from `TXP`. -/
theorem State.packetJudged_payload_byte {i : Nat} (h : i < payloadCount s.tx.len) :
    s.packetJudged.readByte .rxp i = s.readByte .txp i := by
  rw [s.packetJudged_rxp, s.packetToSend_payload]
  exact byteAt_bytes _ h

/-- `RXP` beyond the payload sent. -/
theorem State.packetJudged_end_byte {i : Nat} (h : payloadCount s.tx.len ≤ i) :
    s.packetJudged.readByte .rxp i = 0x00#8 := by
  rw [s.packetJudged_rxp]
  exact List.getD_eq_default _ _ (s.packetToSend_payload_length.trans_le h)

end

/-! ### The statements -/

/-- Settles O48: with a frame encoded LOOP is `State.loopFrame`, and without one it only raises `NotReady`. -/
theorem loopCopiesTheFrame : Obligations.LoopCopiesTheFrame := by
  refine ⟨rfl, fun s => ⟨fun hv => ?_, fun hv => ?_⟩⟩
  · exact ⟨s.loopFrame, exec_loop_loopFrame hv, fun i hi => (s.readByte_rxf_loopFrame i).trans (if_pos hi),
      fun i hi => (s.readByte_rxf_loopFrame i).trans (if_neg (Nat.not_lt.2 hi)), rfl, rfl, s.sameExcept_loopFrame⟩
  · exact ⟨_, exec_loop_notReady hv, rfl, s.sameExcept_raise _⟩

/-- Settles O49: LOOP makes the frame sent the datagram received, `Decode` of it is the packet sent, and VALIDATE
accepts that packet, so the verdict says what `UNCK` and the checksum field are. -/
theorem roundTripOnTheHardware : Obligations.RoundTripOnTheHardware := by
  intro s
  have haccept : validatePacket s.version s.packetToSend = .acceptChecked ∨
      validatePacket s.version s.packetToSend = .acceptUnchecked := validatePacket_encodePacket_accepts ..
  obtain ⟨-, hzero, hsum⟩ := validatePacket_accepts haccept
  have hunck : s.packetJudged.status.unck = true ↔ validatePacket s.version s.packetToSend = .acceptUnchecked := by
    rw [s.packetJudged_status, Status.judged_unck]
  refine ⟨s.sendPacket, s.sendPacket.loopFrame, s.packetReceived, s.packetJudged,
    exec_encode s, exec_loop_loopFrame rfl, exec_decode_loopFrame_sendPacket s, exec_validate_judgePacket rfl,
    ?_, ?_, ?_, rfl, rfl, rfl, rfl, rfl, ?_, rfl, fun i hi => ?_, fun i hi => ?_, hunck.trans hzero, fun hu => ?_⟩
  · rw [s.packetJudged_status]
    exact (Status.judged_err ..).2 haccept
  · rw [s.packetJudged_status, Status.judged_rxv]
    rfl
  · rw [s.packetJudged_status]
    exact (Status.judged_ok ..).2 haccept
  · rw [s.packetJudged_plen, payloadCount_eq]
    rfl
  · rw [s.packetJudged_plen] at hi
    exact s.packetJudged_payload_byte hi
  · rw [s.packetJudged_plen] at hi
    exact s.packetJudged_end_byte hi
  · have hchecked : validatePacket s.version s.packetToSend ≠ .acceptUnchecked := fun ha => by
      rw [hunck.2 ha] at hu
      cases hu
    exact s.packetJudged_calc.trans (hsum hchecked).symm

end Sys2Proof.Machine

/-! PROOFS of the family 70_reset_and_hazards.md: what ENCODE left (`TXF`, `TXF_LEN`, `TX_CKSUM`, `TXV`) stays
through every event but another ENCODE or a reset (R158); and each command on the reset state (R154, R155). -/

namespace Sys2Proof.Machine

/-! ### The snapshot that ENCODE leaves (R158) -/

/-- Two states have the same encoded frame: `TXF`, `TXF_LEN`, `TX_CKSUM` and `TXV`. -/
def SameFrame (s t : State) : Prop := t.frame = s.frame ∧ t.status.txv = s.status.txv

theorem SameFrame.readReg_txfLen {s t : State} (h : SameFrame s t) : t.readReg .txfLen = s.readReg .txfLen :=
  congrArg TxFrame.len h.1

theorem SameFrame.readReg_txCksum {s t : State} (h : SameFrame s t) : t.readReg .txCksum = s.readReg .txCksum :=
  congrArg TxFrame.cksum h.1

theorem SameFrame.readByte_txf {s t : State} (h : SameFrame s t) (i : Nat) : t.readByte .txf i = s.readByte .txf i :=
  congrArg (fun f : TxFrame => f.txf.read i) h.1

/-- DECODE writes the receive side alone, whether it holds a packet or drops it. -/
theorem State.sameFrame_receive (s : State) (bs : List Byte) : SameFrame s (s.receive bs) := by
  obtain ⟨p, -, h⟩ | ⟨-, -, h⟩ := s.receive_cases bs <;> rw [h]
  · exact ⟨s.holdPacket_frame p, rfl⟩
  · exact ⟨s.dropPacket_frame, rfl⟩

theorem State.sameFrame_judgePacket (s : State) : SameFrame s s.judgePacket :=
  ⟨rfl, Status.judged_txv ..⟩

/-- Of the instructions only ENCODE and RESET write the encoded frame (R44, R158). -/
theorem exec_sameFrame {i : Instr} {s t : State} (h : exec i s = .next t) (hencode : i ≠ .encode)
    (hreset : i ≠ .reset) : SameFrame s t := by
  cases i with
  | encode => exact absurd rfl hencode
  | reset => exact absurd rfl hreset
  | loop =>
    cases hv : s.status.txv with
    | false => rw [exec_loop_notReady hv] at h; cases h; exact ⟨rfl, rfl⟩
    | true => rw [exec_loop_loopFrame hv] at h; cases h; exact ⟨rfl, rfl⟩
  | validate =>
    obtain ⟨-, rfl⟩ | ⟨-, rfl⟩ := exec_validate_cases h
    · exact ⟨rfl, rfl⟩
    · exact s.sameFrame_judgePacket
  | csum => cases h; exact ⟨rfl, rfl⟩
  | _ => cases h; exact s.sameFrame_receive _

theorem eq_of_decode_command_encode {c : Byte} (h : decode (.command c) = .ok .encode) : c = 0x01#8 := by
  simpa using decode_command_cases h

theorem eq_of_decode_command_reset {c : Byte} (h : decode (.command c) = .ok .reset) : c = 0x06#8 := by
  simpa using decode_command_cases h

/-- Of the events only CMD ENCODE and the two resets write the encoded frame (R158). -/
theorem perform_sameFrame {e : Event} {s t : State} (h : perform e s = .next t) (hencode : e ≠ .wr .cmd 0x01#8)
    (hreset : e ≠ .wr .cmd 0x06#8) (hhard : e ≠ .hardReset) : SameFrame s t := by
  obtain ⟨r, -, rfl⟩ | ⟨b, i, -, -, rfl⟩ | ⟨r, v, -, -, rfl⟩ | ⟨b, i, v, -, -, rfl⟩ | ⟨c, i, rfl, hc, ht⟩ |
    ⟨-, -, -, -, rfl⟩ | ⟨rfl, -⟩ := perform_cases h
  · exact ⟨s.give_frame _, rfl⟩
  · exact ⟨s.give_frame _, rfl⟩
  · exact ⟨s.writeReg_frame r v, congrArg Status.txv (s.writeReg_status r v)⟩
  · exact ⟨s.writeByte_frame b i v, congrArg Status.txv (s.writeByte_status b i v)⟩
  · refine exec_sameFrame ht ?_ ?_
    · rintro rfl
      exact hencode (by rw [eq_of_decode_command_encode hc])
    · rintro rfl
      exact hreset (by rw [eq_of_decode_command_reset hc])
  · exact ⟨s.raise_frame _, rfl⟩
  · exact absurd rfl hhard

/-! ### The frame that ENCODE builds straight after reset (R154) -/

/-- A byte in the low half of a 16-bit number. -/
theorem be16_zero_left (b : Byte) : be16 0x00#8 b = b.setWidth 16 := by
  apply BitVec.eq_of_toNat_eq
  rw [be16_toNat, BitVec.toNat_setWidth_of_le (by decide)]
  simp

/-- `VERSION` is the one byte of the frame, outside the checksum field, that is not zero. -/
theorem checksum_packetToSend_reset :
    State.reset.packetToSend.header.checksum = be16 0x00#8 Config.scpVersion := by
  have hsum : (checksumOf State.reset.packetToSend).toNat = Config.scpVersion.toNat % 65536 :=
    State.reset.checksumOf_packetToSend_toNat
  have hcken : State.reset.cken = true := rfl
  rw [State.packetToSend_checksum, if_pos hcken, be16_zero_left]
  apply BitVec.eq_of_toNat_eq
  rw [hsum, BitVec.toNat_setWidth]

/-- Every transmit register is zero and `TXP` is not read, so only `VERSION` and the checksum are left. -/
theorem packetToSend_reset :
    State.reset.packetToSend =
      ⟨⟨Config.scpVersion, 0, 0, 0, 0, 0, be16 0x00#8 Config.scpVersion⟩, []⟩ := by
  rw [← checksum_packetToSend_reset]
  rfl

theorem encodedFrame_sendPacket_reset :
    State.reset.sendPacket.encodedFrame =
      [Config.scpVersion, 0, 0, 0, 0, 0, 0, 0, 0, 0, 0, Config.scpVersion] := by
  rw [State.encodedFrame_sendPacket, packetToSend_reset, Packet.bytes, packHeader, byteOf_be16_high, byteOf_be16_low]
  rfl

/-! ### The statements -/

/-- Settles O20: the frame and `TXV` are the same, and the registers and bytes are read from the frame. -/
theorem frameIsASnapshot : Obligations.FrameIsASnapshot := by
  intro e s t h hencode hreset hhard
  have hframe := perform_sameFrame h hencode hreset hhard
  exact ⟨hframe.readReg_txfLen, hframe.readReg_txCksum, hframe.2, hframe.readByte_txf⟩

/-- Settles O4: after reset no byte has been received, no packet is held and no frame is encoded, and ENCODE builds the
frame of a packet that is all zero but for `VERSION` and the checksum. -/
theorem commandsStraightAfterReset : Obligations.CommandsStraightAfterReset := by
  refine ⟨⟨_, exec_decode_error (e := .shortHeader) rfl, rfl⟩, ⟨_, exec_validate_none rfl, rfl⟩,
    ⟨_, exec_loop_notReady rfl, rfl⟩, ⟨_, exec_csum _, byteSum_nil, rfl⟩,
    ⟨_, exec_encode _, rfl, ?_, encodedFrame_sendPacket_reset⟩⟩
  exact checksum_packetToSend_reset.trans (be16_zero_left _)

end Sys2Proof.Machine

/-! PROOFS of the frame rows (30_encoding.md): the decoder and the encoder agree on every instruction (R69, R78), and a
frame row is DECODE of its packet, which ENCODE builds when `TX_TYPE` is the row's code (R71 to R77). -/

namespace Sys2Proof

theorem decodePacket_header {bs : List Byte} {p : Packet} (h : decodePacket bs = .ok p) :
    p.header = unpackHeader bs := by
  obtain ⟨-, rfl⟩ := decodePacket_eq_ok.1 h
  rfl

/-! ### The seven rows of the type table -/

/-- The rows of R70, each with its type code. -/
def frameRows : List ((FrameOperands → Instr) × Byte) :=
  [(.syn, 0x01#8), (.synAck, 0x02#8), (.ack, 0x03#8), (.msg, 0x10#8), (.msgAck, 0x11#8), (.fin, 0x20#8),
   (.finAck, 0x21#8)]

/-- The operands are all of a packet but its type. -/
theorem Packet.packet_operands (p : Packet) : p.operands.packet p.header.typ = p := rfl

/-- A packet is the instruction of the row that has its type, applied to its operands. -/
theorem instrOfPacket_eq_ok {p : Packet} {i : Instr} :
    instrOfPacket p = .ok i ↔ ∃ row ∈ frameRows, p.header.typ = row.2 ∧ i = row.1 p.operands := by
  simp only [frameRows, List.exists_mem_cons_iff, List.not_mem_nil, false_and, exists_false, or_false]
  constructor
  · intro h
    simp only [instrOfPacket] at h
    repeat' split at h
    all_goals simp_all
  · rintro (⟨ht, rfl⟩ | ⟨ht, rfl⟩ | ⟨ht, rfl⟩ | ⟨ht, rfl⟩ | ⟨ht, rfl⟩ | ⟨ht, rfl⟩ | ⟨ht, rfl⟩) <;>
      simp [instrOfPacket, ht]

section
variable {row : (FrameOperands → Instr) × Byte} (hrow : row ∈ frameRows) (f : FrameOperands)
include hrow

theorem instrOfPacket_row : instrOfPacket (f.packet row.2) = .ok (row.1 f) :=
  instrOfPacket_eq_ok.2 ⟨row, hrow, rfl, rfl⟩

theorem typeDefined_row : Machine.typeDefined row.2 = true :=
  (by decide : ∀ row ∈ frameRows.map Prod.snd, Machine.typeDefined row = true) row.2 (List.mem_map_of_mem hrow)

theorem encode_row : encode (row.1 f) = .datagram (f.packet row.2).bytes := by
  simp only [frameRows, List.mem_cons, List.not_mem_nil, or_false] at hrow
  obtain rfl | rfl | rfl | rfl | rfl | rfl | rfl := hrow <;> rfl

theorem wf_row : (row.1 f).wf = f.wf := by
  simp only [frameRows, List.mem_cons, List.not_mem_nil, or_false] at hrow
  obtain rfl | rfl | rfl | rfl | rfl | rfl | rfl := hrow <;> rfl

end

/-! ### Well-formed operands and legal packets -/

theorem FrameOperands.wf_iff {f : FrameOperands} :
    f.wf = true ↔ f.payloadLength.toNat ≤ 512 ∧ f.payload.length = f.payloadLength.toNat := by
  simp [FrameOperands.wf, FrameOperands.lengthLegal, FrameOperands.lengthMatches]

/-- Everything the decoder of frames accepts: a legal packet of a defined type (R69, R84). -/
theorem decodeFrame_eq_ok {bs : List Byte} {i : Instr} :
    decodeFrame bs = .ok i ↔
      ∃ p, decodePacket bs = .ok p ∧ p.header.payloadLength.toNat ≤ 512 ∧ instrOfPacket p = .ok i := by
  unfold decodeFrame
  cases decodePacket bs with
  | error e => simp
  | ok p => by_cases hlen : p.header.payloadLength.toNat ≤ 512 <;> simp [hlen]

/-- The bytes of a well-formed packet of the type table decode to its instruction. -/
theorem decode_bytes {p : Packet} {i : Instr} (hwf : p.operands.wf = true) (h : instrOfPacket p = .ok i) :
    decode (.datagram p.bytes) = .ok i := by
  obtain ⟨hmax, hlen⟩ := FrameOperands.wf_iff.1 hwf
  exact decodeFrame_eq_ok.2 ⟨p, decodePacket_bytes hlen, hmax, h⟩

/-- What decodes from a datagram is a well-formed packet of the type table, at the head of the datagram (R69). -/
theorem packet_of_decode_datagram {bs : List Byte} {i : Instr} (h : decode (.datagram bs) = .ok i) :
    ∃ p, decodePacket bs = .ok p ∧ p.operands.wf = true ∧ instrOfPacket p = .ok i := by
  obtain ⟨p, hp, hmax, hi⟩ := decodeFrame_eq_ok.1 h
  exact ⟨p, hp, FrameOperands.wf_iff.2 ⟨hmax, decodePacket_payload_length hp⟩, hi⟩

/-- The encoding of a packet's instruction is the packet's bytes. -/
theorem encode_of_instrOfPacket {p : Packet} {i : Instr} (h : instrOfPacket p = .ok i) :
    encode i = .datagram p.bytes ∧ i.wf = p.operands.wf := by
  obtain ⟨row, hrow, ht, rfl⟩ := instrOfPacket_eq_ok.1 h
  exact ⟨by rw [encode_row hrow, ← ht, p.packet_operands], wf_row hrow _⟩

end Sys2Proof

namespace Sys2Proof.Machine

/-! ### A frame row as an instruction -/

/-- The instruction of a well-formed packet is a DECODE that holds it: its bytes fit the receive buffer (R71 to R77). -/
theorem exec_holdPacket {p : Packet} {i : Instr} (hwf : p.operands.wf = true) (h : instrOfPacket p = .ok i)
    (s : State) : exec i s = .next (s.holdPacket p) := by
  obtain ⟨hmax, hlen⟩ := FrameOperands.wf_iff.1 hwf
  have hfit : p.bytes.take 524 = p.bytes := by
    refine List.take_of_length_le ?_
    have : p.payload.length = p.header.payloadLength.toNat := hlen
    have : p.header.payloadLength.toNat ≤ 512 := hmax
    rw [Packet.bytes_length]
    omega
  rw [exec_of_packet h, hfit, State.receive_ok (decodePacket_bytes hlen)]

/-- The packet that ENCODE sends is always well-formed (R91). -/
theorem State.packetToSend_operands_wf (s : State) : s.packetToSend.operands.wf = true :=
  FrameOperands.wf_iff.2
    ⟨s.packetToSend_plen.trans_le (payloadCount_le _), s.packetToSend_payload_length_eq_plen⟩

/-! ### The statements -/

/-- Settles O5: the invariant holds after every event, and a step performs one or none. -/
theorem stepKeepsInvariant : Obligations.StepKeepsInvariant := fun _ _ hi h => hi.step h

/-- Settles O24: a command is its code, and a frame row with well-formed operands is the bytes of its packet. -/
theorem decodeOfEncodeIsTheInstruction : Obligations.DecodeOfEncodeIsTheInstruction := by
  intro i hwf
  cases i with
  | encode | decode | validate | csum | loop | reset => rfl
  | syn f | synAck f | ack f | msg f | msgAck f | fin f | finAck f => exact decode_bytes hwf rfl

/-- Settles O25: the packet that decodes is the one whose bytes are encoded, and those are the frame's. -/
theorem encodeOfDecodeIsTheCode : Obligations.EncodeOfDecodeIsTheCode := by
  refine ⟨fun c i h => ?_, fun bs i h => ?_⟩
  · obtain ⟨rfl, rfl⟩ | ⟨rfl, rfl⟩ | ⟨rfl, rfl⟩ | ⟨rfl, rfl⟩ | ⟨rfl, rfl⟩ | ⟨rfl, rfl⟩ :=
      decode_command_cases h <;> rfl
  · obtain ⟨p, hp, hwf, hi⟩ := packet_of_decode_datagram h
    obtain ⟨hencode, hwf_eq⟩ := encode_of_instrOfPacket hi
    exact ⟨hwf_eq.trans hwf, by rw [hencode, bytes_of_decodePacket hp, decodePacket_header hp]⟩

/-- Settles O10: both the command and the frame's instruction hold the packet at the head of the received bytes. -/
theorem stepRunsTheFrameReceived : Obligations.StepRunsTheFrameReceived := by
  intro s i rest hpending h
  obtain ⟨p, hp, hwf, hi⟩ := packet_of_decode_datagram h
  have hcmd : decode (.command 0x02#8) = .ok .decode := rfl
  rw [step_of_pending hpending, perform_cmd, runCommand_ok hcmd, exec_holdPacket hwf hi]
  exact exec_decode_ok ((congrArg decodePacket (s.taken_datagram rest)).trans hp)

/-- Settles O27: a frame row holds the packet of its operands, and every code of the table is a defined type. -/
theorem framesAreTakenApart : Obligations.FramesAreTakenApart := by
  intro row hrow f s hwf
  have hstatus : s.status.decoded row.2 =
      { s.status with rxv := true, tunk := false, ok := false, unck := false, err := .none } := by
    rw [Status.decoded, typeDefined_row hrow]
    rfl
  have hexec : exec (row.1 f) s = .next (s.holdPacket (f.packet row.2)) :=
    exec_holdPacket (p := f.packet row.2) hwf (instrOfPacket_row hrow f) s
  exact ⟨_, hexec, rfl, rfl, rfl, rfl, rfl, rfl, rfl, rfl, Memory.read_ofBytes _, hstatus, s.sameExcept_holdPacket _⟩

/-- Settles O28: the packet that ENCODE sends is well-formed and has the type in `TX_TYPE`. -/
theorem encodeProducesTheTypedFrame : Obligations.EncodeProducesTheTypedFrame := by
  intro row hrow s htype
  have hinstr : instrOfPacket s.packetToSend = .ok (row.1 s.packetToSend.operands) :=
    instrOfPacket_eq_ok.2 ⟨row, hrow, htype, rfl⟩
  have hplen : s.packetToSend.operands.payloadLength.toNat = payloadCount s.tx.len := s.packetToSend_plen
  refine ⟨s.sendPacket, s.packetToSend.operands, exec_encode s, ?_, s.packetToSend_operands_wf, rfl, rfl, rfl, rfl,
    hplen.trans (payloadCount_eq _), rfl, fun i hi => ?_⟩
  · rw [s.encodedFrame_sendPacket]
    exact decode_bytes s.packetToSend_operands_wf hinstr
  · rw [hplen] at hi
    have hpayload : s.packetToSend.operands.payload = s.tx.txp.bytes (payloadCount s.tx.len) := s.packetToSend_payload
    rw [hpayload, Memory.bytes_getElem?, if_pos hi]
    rfl

/-- Settles O26: each word is evaluated by the decoder. -/
theorem specWordsDecode : Obligations.SpecWordsDecode := by
  refine ⟨?_, ?_, ?_, ?_, ?_, ?_, ?_, ?_, ?_, ?_, ?_, ?_, ?_⟩ <;> rfl

end Sys2Proof.Machine

/-! PROOFS about the machine as a whole: a step is the next event (log 1), every access to a location of the block has a
next state (R139, R50), `VERSION` and the host's two lists are kept (R16, log 16), the decoded packet is a snapshot
(R159), and no outcome affects the next command (R131). -/

namespace Sys2Proof.Machine

/-! ### Steps and events -/

theorem step_idle {s : State} (h : s.pending = []) : step s = .next s := by simp [step, nextEvent, h]

theorem exec_loop_cases {s t : State} (h : exec .loop s = .next t) :
    (s.status.txv = false ∧ t = s.raise .notReady) ∨ (s.status.txv = true ∧ t = s.loopFrame) := by
  cases hv : s.status.txv with
  | false =>
    rw [exec_loop_notReady hv] at h
    cases h
    exact .inl ⟨rfl, rfl⟩
  | true =>
    rw [exec_loop_loopFrame hv] at h
    cases h
    exact .inr ⟨rfl, rfl⟩

/-- A write to `CMD` completes, whatever the code. -/
theorem runCommand_next (c : Byte) (s : State) : ∃ t, runCommand c s = .next t := by
  unfold runCommand
  split
  · exact exec_next _ s
  · exact ⟨_, rfl⟩

theorem perform_named {e : Event} (h : e.named = true) (s : State) : ∃ t, perform e s = .next t := by
  cases e with
  | rd r => exact ⟨_, rfl⟩
  | wr r v =>
    by_cases hr : r = .cmd
    · subst hr
      exact runCommand_next v s
    · exact ⟨_, perform_wr hr v s⟩
  | rdb b i => exact ⟨_, if_pos (of_decide_eq_true h)⟩
  | wrb b i v => exact ⟨_, perform_wrb (of_decide_eq_true h) v s⟩
  | hardReset => exact ⟨_, rfl⟩
  | noRegister k => cases h
  | noBuffer k i => cases h

theorem perform_rdb_outside {b : Buf} {i : Nat} (h : ¬ i < b.size) (s : State) :
    perform (.rdb b i) s = .refused (.noSuchIndex b i) := if_neg h

theorem perform_wrb_outside {b : Buf} {i : Nat} (h : ¬ i < b.size) (v : Byte) (s : State) :
    perform (.wrb b i v) s = .refused (.noSuchIndex b i) := if_neg h

theorem perform_not_named {e : Event} (h : e.named = false) (s : State) : ∃ r, perform e s = .refused r := by
  cases e with
  | rd r => cases h
  | wr r v => cases h
  | rdb b i => exact ⟨_, perform_rdb_outside (of_decide_eq_false h) s⟩
  | wrb b i v => exact ⟨_, perform_wrb_outside (of_decide_eq_false h) v s⟩
  | hardReset => cases h
  | noRegister k => exact ⟨_, rfl⟩
  | noBuffer k i => exact ⟨_, rfl⟩

/-! ### The host's two lists (log 16) -/

theorem State.sameHost_receive (s : State) (bs : List Byte) : SameHost s (s.receive bs) := by
  obtain ⟨p, -, h⟩ | ⟨-, -, h⟩ := s.receive_cases bs <;> rw [h] <;> exact ⟨rfl, rfl⟩

/-- No instruction changes what the host will do or has been given. -/
theorem exec_sameHost {i : Instr} {s t : State} (h : exec i s = .next t) : SameHost s t := by
  cases i with
  | encode | csum | reset => cases h; exact ⟨rfl, rfl⟩
  | validate => obtain ⟨-, rfl⟩ | ⟨-, rfl⟩ := exec_validate_cases h <;> exact ⟨rfl, rfl⟩
  | loop => obtain ⟨-, rfl⟩ | ⟨-, rfl⟩ := exec_loop_cases h <;> exact ⟨rfl, rfl⟩
  | _ => cases h; exact s.sameHost_receive _

/-- An event that is not a read leaves the host's lists as they were. -/
theorem perform_sameHost {e : Event} {s t : State} (h : perform e s = .next t) (hrd : ∀ r, e ≠ .rd r)
    (hrdb : ∀ b i, e ≠ .rdb b i) : SameHost s t := by
  obtain ⟨r, rfl, -⟩ | ⟨b, i, rfl, -, -⟩ | ⟨r, v, -, -, rfl⟩ | ⟨b, i, v, -, -, rfl⟩ | ⟨c, i, -, -, ht⟩ |
    ⟨-, -, -, -, rfl⟩ | ⟨-, rfl⟩ := perform_cases h
  · exact absurd rfl (hrd r)
  · exact absurd rfl (hrdb b i)
  · exact ⟨s.writeReg_pending r v, s.writeReg_returned r v⟩
  · exact ⟨s.writeByte_pending b i v, s.writeByte_returned b i v⟩
  · exact exec_sameHost ht
  · exact ⟨rfl, rfl⟩
  · exact ⟨rfl, rfl⟩

/-- The list of events is never changed by the event performed. -/
theorem perform_pending {e : Event} {s t : State} (h : perform e s = .next t) : t.pending = s.pending := by
  cases e with
  | rd r => cases h; rfl
  | rdb b i =>
    obtain ⟨hi, ht⟩ | ⟨hi, ht⟩ := ite_eq_iff.1 h
    · cases ht; rfl
    · cases ht
  | _ => exact (perform_sameHost h nofun nofun).1

/-- A reset of a block of this version gives the reset state, with the host's lists. -/
theorem State.resetBlock_of_version {s : State} (h : s.version = Config.scpVersion) :
    s.resetBlock = { State.reset with pending := s.pending, returned := s.returned } := by
  rw [State.resetBlock, h]
  rfl

/-! ### The packet held -/

/-- Two states hold the same packet, as DECODE left it: they differ in the receive registers by `RX_CALC` at most, and
`RXV` is the same. -/
def SamePacket (s t : State) : Prop := t.rx = { s.rx with computed := t.rx.computed } ∧ t.status.rxv = s.status.rxv

theorem SamePacket.readReg {s t : State} (h : SamePacket s t) :
    ∀ r ∈ [Reg.rxVer, .rxType, .rxFlags, .rxRsvd, .rxSeq, .rxPlen, .rxCksum], t.readReg r = s.readReg r := by
  obtain ⟨hrx, -⟩ := h
  intro r hr
  cases r with
  | rxVer | rxType | rxFlags | rxRsvd | rxSeq | rxPlen | rxCksum => simp only [State.readReg]; rw [hrx]
  | _ => exact absurd hr (by decide)

theorem SamePacket.readByte_rxp {s t : State} (h : SamePacket s t) (i : Nat) :
    t.readByte .rxp i = s.readByte .rxp i := by
  have hrxp : t.rx.rxp = s.rx.rxp := (congrArg RxPacket.rxp h.1).trans rfl
  exact congrArg (·.read i) hrxp

/-- An update that leaves the receive registers and `RXV` alone holds the same packet. -/
theorem samePacket_of_rx {s t : State} (hrx : t.rx = s.rx) (hrxv : t.status.rxv = s.status.rxv) : SamePacket s t :=
  ⟨by rw [hrx], hrxv⟩

theorem State.samePacket_judgePacket (s : State) : SamePacket s s.judgePacket := ⟨rfl, Status.judged_rxv ..⟩

theorem eq_of_decode_command_decode {c : Byte} (h : decode (.command c) = .ok .decode) : c = 0x02#8 := by
  simpa using decode_command_cases h

/-- Of the commands only DECODE and RESET write the packet held (R44, R159). -/
theorem command_samePacket {c : Byte} {i : Instr} {s t : State} (hc : decode (.command c) = .ok i)
    (h : exec i s = .next t) (hdecode : i ≠ .decode) (hreset : i ≠ .reset) : SamePacket s t := by
  obtain ⟨-, rfl⟩ | ⟨-, rfl⟩ | ⟨-, rfl⟩ | ⟨-, rfl⟩ | ⟨-, rfl⟩ | ⟨-, rfl⟩ := decode_command_cases hc
  · cases h; exact samePacket_of_rx rfl rfl
  · exact absurd rfl hdecode
  · obtain ⟨-, rfl⟩ | ⟨-, rfl⟩ := exec_validate_cases h
    · exact samePacket_of_rx rfl rfl
    · exact s.samePacket_judgePacket
  · cases h; exact samePacket_of_rx rfl rfl
  · obtain ⟨-, rfl⟩ | ⟨-, rfl⟩ := exec_loop_cases h <;> exact samePacket_of_rx rfl rfl
  · exact absurd rfl hreset

/-- Of the events only CMD DECODE and the two resets write the packet held (R159). -/
theorem perform_samePacket {e : Event} {s t : State} (h : perform e s = .next t) (hdecode : e ≠ .wr .cmd 0x02#8)
    (hreset : e ≠ .wr .cmd 0x06#8) (hhard : e ≠ .hardReset) : SamePacket s t := by
  obtain ⟨r, -, rfl⟩ | ⟨b, i, -, -, rfl⟩ | ⟨r, v, -, -, rfl⟩ | ⟨b, i, v, -, -, rfl⟩ | ⟨c, i, rfl, hc, ht⟩ |
    ⟨-, -, -, -, rfl⟩ | ⟨rfl, -⟩ := perform_cases h
  · exact samePacket_of_rx rfl rfl
  · exact samePacket_of_rx rfl rfl
  · exact samePacket_of_rx (s.writeReg_rx r v) (congrArg Status.rxv (s.writeReg_status r v))
  · exact samePacket_of_rx (s.writeByte_rx b i v) (congrArg Status.rxv (s.writeByte_status b i v))
  · refine command_samePacket hc ht ?_ ?_
    · rintro rfl
      exact hdecode (by rw [eq_of_decode_command_decode hc])
    · rintro rfl
      exact hreset (by rw [eq_of_decode_command_reset hc])
  · exact samePacket_of_rx rfl rfl
  · exact absurd rfl hhard

/-! ### `STATUS` and the host's accesses -/

/-- Only a command or a reset changes `STATUS` (R47). -/
theorem perform_status {e : Event} {s t : State} (h : perform e s = .next t) (hhard : e ≠ .hardReset)
    (hcmd : ∀ c, e ≠ .wr .cmd c) : t.status = s.status := by
  obtain ⟨r, -, rfl⟩ | ⟨b, i, -, -, rfl⟩ | ⟨r, v, -, -, rfl⟩ | ⟨b, i, v, -, -, rfl⟩ | ⟨c, -, rfl, -, -⟩ |
    ⟨c, -, rfl, -, -⟩ | ⟨rfl, -⟩ := perform_cases h
  · exact s.give_status _
  · exact s.give_status _
  · exact s.writeReg_status r v
  · exact s.writeByte_status b i v
  · exact absurd rfl (hcmd c)
  · exact absurd rfl (hcmd c)
  · exact absurd rfl hhard

/-! ### The outcome of the command before (R131) -/

theorem Status.judged_ended (f : Status) (e : ErrorCode) (v : Verdict) : (f.ended e).judged v = f.judged v := by
  cases v <;> rfl

theorem State.receive_raise (s : State) (e : ErrorCode) (bs : List Byte) : (s.raise e).receive bs = s.receive bs := by
  cases h : decodePacket bs with
  | ok p => rw [State.receive_ok h, State.receive_ok h]; rfl
  | error r => rw [State.receive_error h, State.receive_error h]; rfl

theorem State.judgePacket_raise (s : State) (e : ErrorCode) : (s.raise e).judgePacket = s.judgePacket :=
  congrArg (fun f => { s with rx := { s.rx with computed := checksumOf s.heldPacket }, status := f })
    (s.status.judged_ended e _)

/-- Every instruction writes `ERR` and none reads it. -/
theorem exec_raise (i : Instr) (s : State) (e : ErrorCode) : exec i (s.raise e) = exec i s := by
  cases i with
  | encode | csum | reset => rfl
  | loop =>
    cases hv : s.status.txv with
    | false => rw [exec_loop_notReady hv, exec_loop_notReady (s := s.raise e) hv]; rfl
    | true => rw [exec_loop_loopFrame hv, exec_loop_loopFrame (s := s.raise e) hv]; rfl
  | validate =>
    cases hv : s.status.rxv with
    | false => rw [exec_validate_none hv, exec_validate_none (s := s.raise e) hv]; rfl
    | true =>
      rw [exec_validate_judgePacket hv, exec_validate_judgePacket (s := s.raise e) hv, s.judgePacket_raise]
  | _ => exact congrArg Host.Outcome.next (s.receive_raise e _)

/-! ### The statements -/

/-- Settles O2: `VERSION` is `SCP_VERSION` in a reachable state, and both resets keep it and the two lists alone. -/
theorem resetKeepsOnlyTheHostsLists : Obligations.ResetKeepsOnlyTheHostsLists := by
  intro s h
  rw [← State.resetBlock_of_version h.version]
  exact ⟨exec_reset s, rfl⟩

/-- Settles O7: the invariant says which acceptance `OK` was, on the packet that is still held. -/
theorem okMeansThePolicyAccepts : Obligations.OkMeansThePolicyAccepts := by
  intro s h hok
  obtain ⟨-, hver⟩ := h.inv.ok_version hok
  obtain ⟨hcalc, hzero, hsum⟩ := h.inv.ok_verdict hok
  rw [← h.version]
  cases hu : s.status.unck with
  | true => exact validatePacket_zero_checksum hver (hzero.1 hu)
  | false =>
    have hnz : s.rx.cksum ≠ 0x0000#16 := fun hz => by simp [hzero.2 hz] at hu
    exact validatePacket_checksum_eq hver hnz ((hsum hu).trans hcalc)

/-- Settles O14: the named locations are those whose access is not refused. -/
theorem everyNamedAccessHasAStep : Obligations.EveryNamedAccessHasAStep :=
  fun _ s => ⟨fun h => perform_named h s, fun h => perform_not_named h s⟩

/-- Settles O15: `VERSION` is a field that no step writes. -/
theorem noStepChangesVersion : Obligations.NoStepChangesVersion := fun _ _ h => step_version h

/-- Settles O17: no instruction writes the two lists, and of the events only the reads do. -/
theorem onlyReadsReturnValues : Obligations.OnlyReadsReturnValues :=
  ⟨fun _ _ _ h => exec_sameHost h, fun _ _ _ h =>
    ⟨perform_pending h, fun hrd hrdb => (perform_sameHost h hrd hrdb).2⟩⟩

/-- Settles O21: the packet held is the same, and the registers and `RXP` are read from it. -/
theorem decodedPacketIsASnapshot : Obligations.DecodedPacketIsASnapshot := by
  intro e s t h hdecode hreset hhard
  have hpacket := perform_samePacket h hdecode hreset hhard
  exact ⟨hpacket.readReg, hpacket.2, hpacket.readByte_rxp⟩

/-- Settles O56: the `STATUS` register is a view of the flags, which only commands and resets write. -/
theorem onlyCommandsChangeStatus : Obligations.OnlyCommandsChangeStatus := by
  intro e s t h hhard hcmd
  have hstatus := perform_status h hhard hcmd
  exact ⟨hstatus, congrArg Status.word hstatus⟩

/-- Settles O3: the base case of the invariant. -/
theorem resetStateMeetsInvariant : Obligations.ResetStateMeetsInvariant := State.inv_reset

/-- Settles O8: the event at the head of the list is the one performed. -/
theorem stepPerformsTheNextEvent : Obligations.StepPerformsTheNextEvent := fun _ _ _ h => step_of_pending h

/-- Settles O9: performing a write to `CMD` is running the command decoded. -/
theorem stepRunsTheCommandWritten : Obligations.StepRunsTheCommandWritten := by
  intro s c i rest hpending hc
  rw [step_of_pending hpending, perform_cmd, runCommand_ok hc]

/-- Settles O13: without an event the state stays. -/
theorem idleBlockKeepsItsState : Obligations.IdleBlockKeepsItsState := fun _ h => step_idle h

/-- Settles O16: another outcome in `ERR` is a `raise` before the instruction. -/
theorem noCommandDependsOnErr : Obligations.NoCommandDependsOnErr := exec_raise

end Sys2Proof.Machine

/-! PROOFS of the host's accesses (20_memory.md): a read gives the value and changes nothing, a byte is stored alone,
writing twice is writing once (R47, R55), missing locations are refused (R50), and the bits of `STATUS` (R19, R25). -/

namespace Sys2Proof.Machine

/-! ### Bytes written -/

theorem State.readByte_writeByte (s : State) {b : Buf} (hb : b.writable = true) (i : Nat) (v : Byte) (c : Buf)
    (j : Nat) :
    (s.writeByte b i v).readByte c j = if c = b ∧ j = i then v else s.readByte c j := by
  rw [State.readByte, s.buf_writeByte hb]
  by_cases hc : c = b
  · subst hc
    simp only [true_and, if_true, Memory.read_write]
    rfl
  · simp only [hc, false_and, if_false]
    rfl

/-- The frame of a byte write: one buffer and no register (R47). -/
theorem State.sameExcept_writeByte (s : State) {b : Buf} (hb : b.writable = true) (i : Nat) (v : Byte) :
    SameExcept [] [b] s (s.writeByte b i v) := by
  refine ⟨fun r _ => s.writeByte_readReg b i v r, fun c hc j => ?_⟩
  rw [s.readByte_writeByte hb, if_neg fun h => hc (List.mem_singleton.2 h.1)]

/-! ### Writing twice (R55) -/

theorem State.writeReg_writeReg (s : State) (r : Reg) (v : BitVec r.width) :
    (s.writeReg r v).writeReg r v = s.writeReg r v := by cases r <;> rfl

theorem State.writeByte_writeByte (s : State) (b : Buf) (i : Nat) (v : Byte) :
    (s.writeByte b i v).writeByte b i v = s.writeByte b i v := by
  cases b with
  | txp => simp only [State.writeByte, Memory.write_write]
  | rxf => simp only [State.writeByte, Memory.write_write]
  | txf | rxp => rfl

/-! ### Numbers and ids that name nothing (R50) -/

theorem Reg.ofNumber_eq_none {n : Nat} (h : 20 < n) : Reg.ofNumber n = none := List.getElem?_eq_none h

theorem Buf.ofId_eq_none {n : Nat} (h : 3 < n) : Buf.ofId n = none := List.getElem?_eq_none h

theorem perform_noRegister {n : Nat} (h : 20 < n) (s : State) :
    perform (.noRegister (n - 21)) s = .refused (.noSuchRegister n) := by
  rw [perform, Nat.add_sub_cancel' h]

theorem perform_noBuffer {n : Nat} (h : 3 < n) (i : Nat) (s : State) :
    perform (.noBuffer (n - 4) i) s = .refused (.noSuchBuffer n) := by
  rw [perform, Nat.add_sub_cancel' h]

/-! ### The flags in `STATUS` (R19) -/

theorem Status.word_flags (f : Status) :
    f.word.getLsbD 0 = f.txv ∧ f.word.getLsbD 1 = f.rxv ∧ f.word.getLsbD 2 = f.ok ∧ f.word.getLsbD 3 = f.unck ∧
      f.word.getLsbD 4 = f.tunk := by
  simp only [Status.word, BitVec.getLsbD_append]
  simp

/-! ### The statements -/

/-- Settles O50: each flag is one bit of the word, and the field of `ERR` is its code. -/
theorem statusWordLayout : Obligations.StatusWordLayout := by
  intro s w
  obtain ⟨htxv, hrxv, hok, hunck, htunk⟩ := s.status.word_flags
  obtain ⟨hbits5, hbits11, herr⟩ := s.status.word_upper_fields
  refine ⟨htxv, hrxv, hok, hunck, htunk, hbits5, hbits11, ?_⟩
  show (s.status.word.extractLsb' 8 3).toNat = _
  rw [herr]
  cases s.status.err <;> rfl

/-- Settles O51: a read only adds an answer. -/
theorem readsReturnTheValue : Obligations.ReadsReturnTheValue := fun s =>
  ⟨fun _ => ⟨_, rfl, rfl, rfl, s.sameExcept_give _⟩, fun _ _ hi => ⟨_, if_pos hi, rfl, rfl, s.sameExcept_give _⟩⟩

/-- Settles O54: a host-writable buffer reads the byte at the index written and else what it read before. -/
theorem bufferWritesStoreOneByte : Obligations.BufferWritesStoreOneByte := by
  intro s b i v hb hi
  refine ⟨_, perform_wrb hi v s, ?_, fun j hj => ?_, s.sameExcept_writeByte hb i v⟩
  · rw [s.readByte_writeByte hb, if_pos ⟨rfl, rfl⟩]
  · rw [s.readByte_writeByte hb, if_neg fun h => hj h.2]

/-- Settles O57: both kinds of write store a value that depends on nothing stored before. -/
theorem writesAreIdempotent : Obligations.WritesAreIdempotent := by
  refine fun s => ⟨fun r v hr => ⟨_, perform_wr hr v s, ?_⟩, fun b i v hi => ⟨_, perform_wrb hi v s, ?_⟩⟩
  · rw [perform_wr hr, s.writeReg_writeReg]
  · rw [perform_wrb hi, s.writeByte_writeByte]

/-- Settles O55: a number or id beyond the tables becomes the event that names nothing, and an index outside its buffer
is refused by the bound check. -/
theorem missingLocationsAreRefused : Obligations.MissingLocationsAreRefused := by
  intro s n i x v
  refine ⟨fun hn => ?_, fun hn => ?_, fun b hb hi => ?_⟩
  · rw [Event.rdNumber, Event.wrNumber, Reg.ofNumber_eq_none hn]
    exact ⟨perform_noRegister hn s, perform_noRegister hn s⟩
  · rw [Event.rdbNumber, Event.wrbNumber, Buf.ofId_eq_none hn]
    exact ⟨perform_noBuffer hn i s, perform_noBuffer hn i s⟩
  · simp only [List.mem_cons, List.not_mem_nil, or_false] at hb
    obtain rfl | rfl | rfl | rfl := hb <;>
      exact ⟨perform_rdb_outside (Nat.not_lt.2 hi) s, perform_wrb_outside (Nat.not_lt.2 hi) v s⟩

end Sys2Proof.Machine

/-! PROOFS about what the commands write and read (R44, R39): the frame of each command, and that its results are a
function of the registers and bytes it reads; so a second ENCODE changes nothing (R95). -/

namespace Sys2Proof.Machine

/-! ### What the commands write -/

theorem SameExcept.mono {rs rs' : List Reg} {bs bs' : List Buf} {s t : State} (h : SameExcept rs bs s t)
    (hrs : rs ⊆ rs') (hbs : bs ⊆ bs') : SameExcept rs' bs' s t :=
  ⟨fun r hr => h.1 r (mt (@hrs r) hr), fun b hb => h.2 b (mt (@hbs b) hb)⟩

theorem State.sameExcept_receive (s : State) (bs : List Byte) :
    SameExcept (.status :: packetRegs) [.rxp] s (s.receive bs) := by
  obtain ⟨p, -, h⟩ | ⟨-, -, h⟩ := s.receive_cases bs <;> rw [h]
  · exact s.sameExcept_holdPacket p
  · exact s.sameExcept_dropPacket

/-- DECODE, whatever it finds, keeps `TXV` and clears the verdict (R97). -/
theorem State.receive_status (s : State) (bs : List Byte) :
    ∃ rxv tunk err, (s.receive bs).status =
      { s.status with rxv := rxv, tunk := tunk, ok := false, unck := false, err := err } := by
  obtain ⟨p, -, h⟩ | ⟨-, -, h⟩ := s.receive_cases bs <;> rw [h]
  · exact ⟨_, _, _, rfl⟩
  · exact ⟨_, _, _, rfl⟩

theorem Status.judged_eq (f : Status) (v : Verdict) :
    ∃ ok unck err, f.judged v = { f with ok := ok, unck := unck, err := err } := by
  cases v <;> exact ⟨_, _, _, rfl⟩

theorem exec_validate_status {s t : State} (h : exec .validate s = .next t) :
    ∃ ok unck err, t.status = { s.status with ok := ok, unck := unck, err := err } := by
  obtain ⟨-, rfl⟩ | ⟨-, rfl⟩ := exec_validate_cases h
  · exact ⟨_, _, _, rfl⟩
  · exact s.status.judged_eq _

/-- Without a packet VALIDATE does not write `RX_CALC` (R120). -/
theorem exec_validate_rxCalc {s t : State} (h : exec .validate s = .next t) (hv : s.status.rxv = false) :
    t.readReg .rxCalc = s.readReg .rxCalc := by
  rw [exec_validate_none hv] at h
  cases h
  rfl

/-! ### What the commands read -/

section
variable {s s' : State}

theorem cken_eq_of_readReg_ctrl (h : s.readReg .ctrl = s'.readReg .ctrl) : s.cken = s'.cken := by
  rw [Bool.eq_iff_iff, ← s.readReg_ctrl_eq_one_iff, ← s'.readReg_ctrl_eq_one_iff, h]

/-- The packet that ENCODE sends is a function of what R44 says that ENCODE reads. -/
theorem State.packetToSend_congr
    (hreg : ∀ r ∈ [Reg.version, .ctrl, .txType, .txFlags, .txRsvd, .txSeq, .txLen], s.readReg r = s'.readReg r)
    (hbyte : ∀ i, i < payloadCount s.tx.len → s.readByte .txp i = s'.readByte .txp i) :
    s.packetToSend = s'.packetToSend := by
  have hversion : s.version = s'.version := hreg .version (by simp)
  have hcken : s.cken = s'.cken := cken_eq_of_readReg_ctrl (hreg .ctrl (by simp))
  have htype : s.tx.typ = s'.tx.typ := hreg .txType (by simp)
  have hflags : s.tx.flags = s'.tx.flags := hreg .txFlags (by simp)
  have hrsvd : s.tx.rsvd = s'.tx.rsvd := hreg .txRsvd (by simp)
  have hseq : s.tx.seq = s'.tx.seq := hreg .txSeq (by simp)
  have hlen : s.tx.len = s'.tx.len := hreg .txLen (by simp)
  have hpayload : s.tx.txp.bytes (payloadCount s.tx.len) = s'.tx.txp.bytes (payloadCount s.tx.len) :=
    Memory.bytes_congr hbyte
  rw [State.packetToSend, State.packetToSend, hpayload, hversion, hcken, htype, hflags, hrsvd, hseq, hlen]

/-- The frame that ENCODE leaves is a function of the packet sent: its length is that of the packet. -/
theorem State.sendPacket_frame_congr (h : s.packetToSend = s'.packetToSend) :
    s.sendPacket.frame = s'.sendPacket.frame := by
  have hcount : payloadCount s.tx.len = payloadCount s'.tx.len := by
    rw [← s.packetToSend_payload_length, h, s'.packetToSend_payload_length]
  rw [s.sendPacket_frame, s'.sendPacket_frame, h, hcount]

variable (s s') in
/-- What DECODE writes is a function of the bytes: of the status before it keeps `TXV` alone. -/
theorem State.receive_congr (bs : List Byte) :
    (s.receive bs).rx = (s'.receive bs).rx ∧
      (s.receive bs).status = { (s'.receive bs).status with txv := s.status.txv } := by
  cases h : decodePacket bs with
  | ok p => rw [State.receive_ok h, State.receive_ok h]; exact ⟨rfl, rfl⟩
  | error e => rw [State.receive_error h, State.receive_error h]; exact ⟨rfl, rfl⟩

theorem readReg_packetRegs_congr (h : s.rx = s'.rx) : ∀ r ∈ packetRegs, s.readReg r = s'.readReg r := by
  intro r hr
  cases r with
  | rxVer | rxType | rxFlags | rxRsvd | rxSeq | rxPlen | rxCksum | rxCalc => simp only [State.readReg, h]
  | _ => exact absurd hr (by decide)

/-- The packet held is what the receive registers and the first `RX_PLEN` bytes of `RXP` read. -/
theorem State.heldPacket_congr
    (hreg : ∀ r ∈ [Reg.rxVer, .rxType, .rxFlags, .rxRsvd, .rxSeq, .rxPlen, .rxCksum], s.readReg r = s'.readReg r)
    (hbyte : ∀ i, i < (s.readReg .rxPlen).toNat → s.readByte .rxp i = s'.readByte .rxp i) :
    s.heldPacket = s'.heldPacket := by
  have hver : s.rx.ver = s'.rx.ver := hreg .rxVer (by simp)
  have htype : s.rx.typ = s'.rx.typ := hreg .rxType (by simp)
  have hflags : s.rx.flags = s'.rx.flags := hreg .rxFlags (by simp)
  have hrsvd : s.rx.rsvd = s'.rx.rsvd := hreg .rxRsvd (by simp)
  have hseq : s.rx.seq = s'.rx.seq := hreg .rxSeq (by simp)
  have hplen : s.rx.plen = s'.rx.plen := hreg .rxPlen (by simp)
  have hcksum : s.rx.cksum = s'.rx.cksum := hreg .rxCksum (by simp)
  have hpayload : s.rx.rxp.bytes s.rx.plen.toNat = s'.rx.rxp.bytes s.rx.plen.toNat := Memory.bytes_congr hbyte
  rw [State.heldPacket, State.heldPacket, hpayload, hver, htype, hflags, hrsvd, hseq, hplen, hcksum]

/-- A verdict sets `OK`, `UNCK` and `ERR` whatever the status before. -/
theorem Status.judged_congr (f g : Status) (v : Verdict) :
    (f.judged v).ok = (g.judged v).ok ∧ (f.judged v).unck = (g.judged v).unck ∧
      (f.judged v).err = (g.judged v).err := by
  cases v <;> exact ⟨rfl, rfl, rfl⟩

/-! ### Each command on two states that agree on what it reads -/

variable {t t' : State}

theorem exec_encode_congr (h : exec .encode s = .next t) (h' : exec .encode s' = .next t')
    (hpacket : s.packetToSend = s'.packetToSend) :
    t.frame = t'.frame ∧ t.status.txv = t'.status.txv ∧ t.status.err = t'.status.err := by
  rw [exec_encode] at h h'
  cases h
  cases h'
  exact ⟨State.sendPacket_frame_congr hpacket, rfl, rfl⟩

theorem exec_decode_congr (h : exec .decode s = .next t) (h' : exec .decode s' = .next t')
    (hgram : s.datagram = s'.datagram) :
    t.rx = t'.rx ∧ t.status = { t'.status with txv := s.status.txv } := by
  cases h
  cases h'
  rw [← hgram]
  exact State.receive_congr s s' s.datagram

theorem exec_validate_congr (h : exec .validate s = .next t) (h' : exec .validate s' = .next t')
    (hversion : s.version = s'.version) (hrxv : s.status.rxv = s'.status.rxv) (hheld : s.heldPacket = s'.heldPacket) :
    (s.status.rxv = true → t.rx.computed = t'.rx.computed) ∧ t.status.ok = t'.status.ok ∧
      t.status.unck = t'.status.unck ∧ t.status.err = t'.status.err := by
  cases hv : s.status.rxv with
  | false =>
    rw [exec_validate_none hv] at h
    rw [exec_validate_none (hrxv.symm.trans hv)] at h'
    cases h
    cases h'
    exact ⟨nofun, rfl, rfl, rfl⟩
  | true =>
    rw [exec_validate_judgePacket hv] at h
    rw [exec_validate_judgePacket (hrxv.symm.trans hv)] at h'
    cases h
    cases h'
    rw [s.judgePacket_status, s'.judgePacket_status, hversion, hheld]
    exact ⟨fun _ => congrArg checksumOf hheld, Status.judged_congr ..⟩

theorem exec_csum_congr (h : exec .csum s = .next t) (h' : exec .csum s' = .next t')
    (hgram : s.datagram = s'.datagram) : t.sum = t'.sum ∧ t.status.err = t'.status.err := by
  rw [exec_csum] at h h'
  cases h
  cases h'
  exact ⟨congrArg byteSum hgram, rfl⟩

theorem exec_loop_congr (h : exec .loop s = .next t) (h' : exec .loop s' = .next t')
    (htxv : s.status.txv = s'.status.txv) (hlen : s.frame.len = s'.frame.len)
    (hbyte : ∀ i, i < s.frame.len.toNat → s.readByte .txf i = s'.readByte .txf i) :
    (s.status.txv = true → t.gram.len = t'.gram.len ∧
      ∀ i, i < s.frame.len.toNat → t.readByte .rxf i = t'.readByte .rxf i) ∧ t.status.err = t'.status.err := by
  cases hv : s.status.txv with
  | false =>
    rw [exec_loop_notReady hv] at h
    rw [exec_loop_notReady (htxv.symm.trans hv)] at h'
    cases h
    cases h'
    exact ⟨nofun, rfl⟩
  | true =>
    rw [exec_loop_loopFrame hv] at h
    rw [exec_loop_loopFrame (htxv.symm.trans hv)] at h'
    cases h
    cases h'
    refine ⟨fun _ => ⟨hlen, fun i hi => ?_⟩, rfl⟩
    rw [s.readByte_rxf_loopFrame, if_pos hi, s'.readByte_rxf_loopFrame, if_pos (hlen ▸ hi)]
    exact hbyte i hi

end

/-! ### The statements -/

/-- Settles O18: the frames of the commands, each for the two ways that a command can end. -/
theorem commandsWriteOnlyWhatIsListed : Obligations.CommandsWriteOnlyWhatIsListed := by
  intro s
  refine ⟨⟨_, exec_encode s, s.sameExcept_sendPacket, _, _, rfl⟩,
    ⟨_, rfl, s.sameExcept_receive _, s.receive_status _⟩, ?_, ⟨_, exec_csum s, s.sameExcept_setSum _ _, _, rfl⟩,
    ?_, fun c hc => ⟨_, runCommand_illegal hc s, s.sameExcept_raise _, _, rfl⟩⟩
  · obtain ⟨t, ht⟩ := exec_next .validate s
    exact ⟨t, ht, exec_validate_sameExcept ht, exec_validate_rxCalc ht, exec_validate_status ht⟩
  · cases hv : s.status.txv with
    | false =>
      exact ⟨_, exec_loop_notReady hv, (s.sameExcept_raise _).mono (by simp) (by simp), fun _ _ => rfl, _, rfl⟩
    | true =>
      exact ⟨_, exec_loop_loopFrame hv, s.sameExcept_loopFrame,
        fun i hi => (s.readByte_rxf_loopFrame i).trans (if_neg (Nat.not_lt.2 hi)), _, rfl⟩

/-- Settles O19: the packet sent, the datagram, the packet held and the encoded frame are each read from the listed
registers and bytes, and the results from them. -/
theorem commandsReadOnlyWhatIsListed : Obligations.CommandsReadOnlyWhatIsListed := by
  intro s s' t t'
  refine ⟨fun h h' hreg hbyte => ?_, fun h h' hlen hbyte => ?_, fun h h' hversion hrxv hreg hbyte => ?_,
    fun h h' hlen hbyte => ?_, fun h h' htxv hlen hbyte => exec_loop_congr h h' htxv hlen hbyte⟩
  · have hpacket : s.packetToSend = s'.packetToSend := State.packetToSend_congr hreg fun i hi => by
      rw [payloadCount_eq, Nat.lt_min] at hi
      exact hbyte i hi.1 hi.2
    obtain ⟨hframe, hflags⟩ := exec_encode_congr h h' hpacket
    refine ⟨?_, fun i => congrArg (·.txf.read i) hframe, hflags⟩
    simp [State.readReg, hframe]
  · obtain ⟨hrx, hstatus⟩ := exec_decode_congr h h' (State.datagram_congr hlen hbyte)
    rw [hstatus]
    exact ⟨readReg_packetRegs_congr hrx, fun i => congrArg (·.rxp.read i) hrx, rfl, rfl, rfl, rfl, rfl⟩
  · exact exec_validate_congr h h' hversion hrxv (State.heldPacket_congr hreg hbyte)
  · exact exec_csum_congr h h' (State.datagram_congr hlen hbyte)

/-- Settles O31: ENCODE writes nothing that it reads. -/
theorem encodeAgainChangesNothing : Obligations.EncodeAgainChangesNothing := fun s =>
  ⟨s.sendPacket, exec_encode s, exec_encode s.sendPacket, rfl, rfl, rfl⟩

end Sys2Proof.Machine

/-! PROOFS of the detection of one corrupted byte (R113): a changed byte outside the checksum field changes `FrameSum`,
and a changed byte of the field changes the checksum but not `FrameSum`. -/

namespace Sys2Proof

/-! ### A sequence with one byte changed -/

theorem byteAt_set_same {bs : List Byte} {k : Nat} (h : k < bs.length) (x : Byte) : byteAt (bs.set k x) k = x := by
  simp [byteAt, h]

theorem byteAt_set_of_ne (bs : List Byte) {k i : Nat} (h : k ≠ i) (x : Byte) :
    byteAt (bs.set k x) i = byteAt bs i := by
  simp [byteAt, List.getElem?_set_ne h]

theorem be16_inj {a b c d : Byte} : be16 a b = be16 c d ↔ a = c ∧ b = d := by
  refine ⟨fun h => ⟨?_, ?_⟩, by rintro ⟨rfl, rfl⟩; rfl⟩
  · rw [← byteOf_be16_high a b, h, byteOf_be16_high]
  · rw [← byteOf_be16_low a b, h, byteOf_be16_low]

/-! ### The header of a sequence with one byte changed -/

section
variable {bs : List Byte} {k : Nat} {x : Byte}

theorem unpackHeader_set_version (h : k ≠ 0) : (unpackHeader (bs.set k x)).version = (unpackHeader bs).version :=
  byteAt_set_of_ne bs h x

theorem unpackHeader_set_payloadLength (h8 : k ≠ 8) (h9 : k ≠ 9) :
    (unpackHeader (bs.set k x)).payloadLength = (unpackHeader bs).payloadLength := by
  simp only [unpackHeader, byteAt_set_of_ne bs h8, byteAt_set_of_ne bs h9]

theorem unpackHeader_set_checksum (h10 : k ≠ 10) (h11 : k ≠ 11) :
    (unpackHeader (bs.set k x)).checksum = (unpackHeader bs).checksum := by
  simp only [unpackHeader, byteAt_set_of_ne bs h10, byteAt_set_of_ne bs h11]

theorem unpackHeader_set_checksum_ne (hk : k < bs.length) (hfield : k = 10 ∨ k = 11) (hx : byteAt bs k ≠ x) :
    (unpackHeader (bs.set k x)).checksum ≠ (unpackHeader bs).checksum := by
  intro heq
  obtain ⟨hhigh, hlow⟩ := be16_inj.1 heq
  rcases hfield with rfl | rfl
  · rw [byteAt_set_same hk] at hhigh
    exact hx hhigh.symm
  · rw [byteAt_set_same hk] at hlow
    exact hx hlow.symm

/-- A change outside the length field keeps the frame's size, so the changed bytes still decode, to the packet whose
frame is changed in that byte. -/
theorem decodePacket_set {q : Packet} (h : decodePacket bs = .ok q) (h8 : k ≠ 8) (h9 : k ≠ 9) :
    ∃ q', decodePacket (bs.set k x) = .ok q' ∧ q'.bytes = q.bytes.set k x := by
  have hplen : (unpackHeader (bs.set k x)).payloadLength = (unpackHeader bs).payloadLength :=
    unpackHeader_set_payloadLength h8 h9
  have hfit := (decodePacket_eq_ok.1 h).1
  have h' := decodePacket_eq_ok.2 ⟨by rwa [hplen, List.length_set], rfl⟩
  refine ⟨_, h', ?_⟩
  rw [bytes_of_decodePacket h', bytes_of_decodePacket h, decodePacket_header h, hplen, List.take_set]

end

end Sys2Proof

namespace Sys2Proof.Machine

/-! ### The sum of a sequence with one byte changed -/

/-- `ByteSum` is never blind to one changed byte (R107). -/
theorem byteSum_set_ne {bs : List Byte} {k : Nat} (hk : k < bs.length) {x : Byte} (hx : byteAt bs k ≠ x) :
    byteSum (bs.set k x) ≠ byteSum bs := by
  have hbyte : byteAt bs k = bs[k] := List.getD_eq_getElem ..
  have hsplit : bs = bs.take k ++ byteAt bs k :: bs.drop (k + 1) := by
    rw [hbyte, List.cons_getElem_drop_succ, List.take_append_drop]
  intro heq
  rw [List.set_eq_take_append_cons_drop, if_pos hk] at heq
  conv_rhs at heq => rw [hsplit]
  simp only [byteSum_append, byteSum_cons] at heq
  exact hx (setWidth_byte_inj.1 (add_right_cancel (add_left_cancel heq))).symm

/-- `FrameSum` sees every byte outside the checksum field (R113). -/
theorem frameSum_set_ne {f : List Byte} {k : Nat} (hk : k < f.length) (h10 : k ≠ 10) (h11 : k ≠ 11) {x : Byte}
    (hx : byteAt f k ≠ x) : frameSum (f.set k x) ≠ frameSum f := by
  rw [frameSum_eq_add, frameSum_eq_add, List.take_set, List.drop_set]
  rcases Nat.lt_or_ge k 12 with hlt | hge
  · have hlow : k < 10 := by omega
    rw [if_pos hlt]
    intro heq
    refine byteSum_set_ne ?_ ?_ (add_right_cancel heq)
    · rw [List.length_take]; omega
    · rwa [byteAt_take hlow]
  · rw [if_neg (Nat.not_lt.2 hge), List.set_eq_of_length_le (by rw [List.length_take]; omega)]
    intro heq
    refine byteSum_set_ne ?_ ?_ (add_left_cancel heq)
    · rw [List.length_drop]; omega
    · have hdrop : byteAt (f.drop 12) (k - 12) = byteAt f k := by
        simp [byteAt, List.getElem?_drop, Nat.add_sub_cancel' hge]
      rwa [hdrop]

/-- `FrameSum` does not see the checksum field (R108). -/
theorem frameSum_set_cksum (f : List Byte) {k : Nat} (hk : k = 10 ∨ k = 11) (x : Byte) :
    frameSum (f.set k x) = frameSum f := by
  rw [frameSum_eq_add, frameSum_eq_add, List.take_set, List.drop_set, if_pos (by omega),
    List.set_eq_of_length_le (by rw [List.length_take]; omega)]

/-! ### Packets whose frames differ in one byte -/

/-- What a comparison that succeeds means (R122). -/
theorem validatePacket_eq_acceptChecked {v : Byte} {p : Packet} (h : validatePacket v p = .acceptChecked) :
    p.header.version = v ∧ p.header.checksum ≠ 0x0000#16 ∧ p.header.checksum = checksumOf p := by
  obtain ⟨hver, hzero, hsum⟩ := validatePacket_accepts (.inl h)
  have hne : validatePacket v p ≠ .acceptUnchecked := by rw [h]; exact nofun
  exact ⟨hver, mt hzero.2 hne, hsum hne⟩

/-- One changed byte in the frame of a packet with the right checksum makes it wrong: either the field or the sum
changes, and not both. -/
theorem checksum_ne_of_bytes_set {p q : Packet} {k : Nat} {x : Byte} (hbytes : q.bytes = p.bytes.set k x)
    (hk : k < p.bytes.length) (hx : byteAt p.bytes k ≠ x) (hsum : p.header.checksum = checksumOf p) :
    q.header.checksum ≠ checksumOf q := by
  rw [← frameSum_bytes] at hsum ⊢
  rw [← unpackHeader_bytes] at hsum ⊢
  rw [hbytes]
  by_cases hfield : k = 10 ∨ k = 11
  · rw [frameSum_set_cksum _ hfield, ← hsum]
    exact unpackHeader_set_checksum_ne hk hfield hx
  · obtain ⟨h10, h11⟩ := not_or.1 hfield
    rw [unpackHeader_set_checksum h10 h11, hsum]
    exact (frameSum_set_ne hk h10 h11 hx).symm

/-! ### The statement -/

/-- Settles O47: the changed byte is the version, or it makes the checksum field and the sum differ. -/
theorem oneCorruptedByteIsDetected : Obligations.OneCorruptedByteIsDetected := by
  intro v bs q k x hq hval hk h8 h9 hx
  obtain ⟨q', hq', hbytes⟩ := decodePacket_set (x := x) hq h8 h9
  obtain ⟨hver, hnz, hsum⟩ := validatePacket_eq_acceptChecked hval
  have hheader := decodePacket_header hq
  have hheader' := decodePacket_header hq'
  have hlen : q.bytes.length = 12 + q.header.payloadLength.toNat := by
    rw [Packet.bytes_length, decodePacket_payload_length hq]
  have hbyte : byteAt q.bytes k = byteAt bs k := by rw [bytes_of_decodePacket hq, byteAt_take hk]
  have hfit : k < bs.length := hk.trans_le (hheader ▸ (decodePacket_eq_ok.1 hq).1)
  refine ⟨q', hq', fun h0 => ?_, fun h0 hnz' => ?_, fun hz => ?_⟩
  · subst h0
    have hx' : q'.header.version = x := by rw [hheader']; exact byteAt_set_same hfit x
    have hold : byteAt bs 0 = v := by rw [← hver, hheader]; rfl
    exact validatePacket_version_ne fun hv => hx (hold.trans (hv.symm.trans hx'))
  · have hver' : q'.header.version = v := by rw [hheader', unpackHeader_set_version h0, ← hheader, hver]
    exact validatePacket_checksum_ne hver' hnz'
      (checksum_ne_of_bytes_set hbytes (hlen ▸ hk) (hbyte ▸ hx) hsum)
  · by_contra hfield
    obtain ⟨h10, h11⟩ := not_or.1 hfield
    rw [hheader', unpackHeader_set_checksum h10 h11, ← hheader] at hz
    exact hnz hz

end Sys2Proof.Machine
